-- ==== Sys2Proof/Word.lean ====
section
/-! DEFINITION. The two widths of the block (00_scope.md R9, R11, R12): a byte is 8 bits, a register 32 bits. -/

namespace Sys2Proof

/-- A `u8` of R12. -/
abbrev Byte := BitVec 8

/-- A `u32` of R12: the width of every host-visible register (R11). -/
abbrev Word := BitVec 32

end Sys2Proof
end

