-- ==== Sys2Proof/Syntax.lean ====
section
/-! DEFINITION. The commands of the opcode map (30_encoding.md R82), one constructor per row of spec/opcode_table.json.
No command word carries an operand (R81), so no constructor has an argument. -/

namespace Sys2Proof

/-- The 18 commands of R82. -/
inductive Instr where
  | nop
  | tagFromBytes
  | tagFromText
  | tagBytes
  | tagIsValid
  | tagIsCritical
  | tagIsPublic
  | tagIsReservedBitValid
  | tagIsSafeToCopy
  | tagEq
  | crc32Raw
  | chunkNew
  | chunkParse
  | chunkSerialize
  | chunkLength
  | chunkType
  | chunkData
  | chunkCrc
  deriving DecidableEq, Repr

end Sys2Proof
end

