-- ==== Sys2Proof/Decode.lean ====
section
/-! DEFINITION. Decoding and encoding of command words (30_encoding.md R80, R82, R83, R87). The decoder is total on every
32-bit word (R84); what it rejects, it rejects by name. -/

namespace Sys2Proof

/-- The two ways a command word is illegal (R83). -/
inductive DecodeError where
  /-- (a) RSVD (bits 31:8) is not 0. -/
  | reservedBits
  /-- (b) OPCODE is not in the table of R82. -/
  | unassignedOpcode
  deriving DecidableEq, Repr

/-- OPCODE, bits 7:0 (R80). -/
def opcodeField (w : Word) : BitVec 8 := w.extractLsb' 0 8

/-- RSVD, bits 31:8 (R80). -/
def reservedField (w : Word) : BitVec 24 := w.extractLsb' 8 24

/-- The rows of R82, from OPCODE to command. -/
def commandOf (opcode : BitVec 8) : Option Instr :=
  match opcode.toNat with
  | 0x00 => some .nop
  | 0x01 => some .tagFromBytes
  | 0x02 => some .tagFromText
  | 0x03 => some .tagBytes
  | 0x04 => some .tagIsValid
  | 0x05 => some .tagIsCritical
  | 0x06 => some .tagIsPublic
  | 0x07 => some .tagIsReservedBitValid
  | 0x08 => some .tagIsSafeToCopy
  | 0x09 => some .tagEq
  | 0x10 => some .crc32Raw
  | 0x20 => some .chunkNew
  | 0x21 => some .chunkParse
  | 0x22 => some .chunkSerialize
  | 0x23 => some .chunkLength
  | 0x24 => some .chunkType
  | 0x25 => some .chunkData
  | 0x26 => some .chunkCrc
  | _    => none

/-- `decode` of R87: the reserved bits are checked first. -/
def decode (w : Word) : Except DecodeError Instr :=
  if reservedField w ≠ 0 then .error .reservedBits
  else
    match commandOf (opcodeField w) with
    | some i => .ok i
    | none   => .error .unassignedOpcode

/-- The rows of R82, from command to OPCODE. -/
def opcodeOf : Instr → BitVec 8
  | .nop                   => 0x00
  | .tagFromBytes          => 0x01
  | .tagFromText           => 0x02
  | .tagBytes              => 0x03
  | .tagIsValid            => 0x04
  | .tagIsCritical         => 0x05
  | .tagIsPublic           => 0x06
  | .tagIsReservedBitValid => 0x07
  | .tagIsSafeToCopy       => 0x08
  | .tagEq                 => 0x09
  | .crc32Raw              => 0x10
  | .chunkNew              => 0x20
  | .chunkParse            => 0x21
  | .chunkSerialize        => 0x22
  | .chunkLength           => 0x23
  | .chunkType             => 0x24
  | .chunkData             => 0x25
  | .chunkCrc              => 0x26

/-- A command's word: RSVD zero above its OPCODE (R80). -/
def encode (i : Instr) : Word := (0 : BitVec 24) ++ opcodeOf i

/-- The command the decoder reads from a row of spec/opcode_table.json. Every command word is exactly 32 bits (R80) and
crosses the bus as one value with no byte order (R63), so no bytes are laid out; a wider number is no command word
(log entry 17, DEDUCED, safe). -/
def decodeTableWord (nbits w : Nat) : Option Instr :=
  if nbits ≤ 32 ∧ w < 2 ^ 32 then (decode (BitVec.ofNat 32 w)).toOption else none

end Sys2Proof
end

