-- ==== Sys2Proof/Config.lean ====
section
/-! DEFINITION. The parameters the model takes as arguments (00_scope.md R10). They are data: State carries them in
one field that no step changes, so a claim over every state is a claim over every choice of parameters.
With them stand the free values: constants with no body, of which nothing can be proved. -/

namespace Sys2Proof

/-- FLAG_CASE_RULE of R10: how the four flags read a byte that is not an ASCII letter (R101, D20). -/
inductive FlagCaseRule where
  | asciiCase
  | bit5
  deriving DecidableEq, Repr

/-- The parameters of R10. -/
structure Config where
  /-- IN_SIZE: bytes in the IN buffer. -/
  inSize : Nat
  /-- PAYLOAD_SIZE: bytes of payload the chunk slot can hold. -/
  payloadSize : Nat
  /-- OUT_SIZE: bytes in the OUT buffer. -/
  outSize : Nat
  /-- REG_BASE: where the platform places the REG space (R70). -/
  regBase : Nat
  /-- IN_BASE. -/
  inBase : Nat
  /-- OUT_BASE. -/
  outBase : Nat
  /-- FLAG_CASE_RULE. -/
  flagCase : FlagCaseRule
  deriving DecidableEq, Repr

/-- The configuration of the spec's own vectors (95_test_vectors.md): IN_SIZE = 64, PAYLOAD_SIZE = 64, OUT_SIZE = 76,
ASCII_CASE. DESIGN CHOICE (log entry 1), unsafe for a claim about this configuration only: the reset state uses it; the
bases are the model's. -/
def Config.vectors : Config :=
  { inSize := 64, payloadSize := 64, outSize := 76, regBase := 0x0, inBase := 0x1000, outBase := 0x2000,
    flagCase := .asciiCase }

/-- The line a `BIT1` at a given position goes to where its program defines its label nowhere: R88 gives the branch and not
its destination, so it is a free value, of the position and the label (log entry 8, DESIGN CHOICE, safe). -/
opaque Config.missingLabelLine : Nat → Nat → Nat

/-- What bit n of a 32-bit value reads as for n at or above 32: R88 gives the bit number of `BIT1` no range, so it is a free
value, of the bit number and the value (log entry 18, DESIGN CHOICE, safe). -/
opaque Config.missingBit : Nat → Word → Bool

end Sys2Proof
end

