-- ==== Sys2Proof/Machine/Bus.lean ====
section
/-! DEFINITION. The host's side of the bus: the three spaces (20_memory.md R70), one access (R63), and the register map
(10_state.md section 3). -/

namespace Sys2Proof.Machine

/-- The three host address spaces of R70. -/
inductive Space where
  | reg
  | inBuf
  | outBuf
  deriving DecidableEq, Repr

/-- The direction of an access. A write carries its data; an 8-bit write uses its low 8 bits (log entry 12, DEDUCED, safe). -/
inductive Direction where
  | read
  | write (data : Word)
  deriving DecidableEq, Repr

/-- One host access, (space, offset, width in bits, direction, data) as R88 writes it. Any width and any offset can be
named, so that the bus errors of R66 can be. -/
structure Access where
  space  : Space
  offset : Nat
  width  : Nat
  dir    : Direction
  deriving DecidableEq, Repr

/-- The named registers of the REG space (10_state.md section 3). -/
inductive RegName where
  | id
  | cmd
  | status
  | errCode
  | errInfo0
  | errInfo1
  | result
  | tagIn
  | srcLen
  | outLen
  | capIn
  | capPayload
  | capOut
  deriving DecidableEq, Repr

/-- A register's byte offset in REG (the table of 10_state.md section 3). -/
def RegName.offset : RegName → Nat
  | .id         => 0x00
  | .cmd        => 0x04
  | .status     => 0x08
  | .errCode    => 0x0C
  | .errInfo0   => 0x10
  | .errInfo1   => 0x14
  | .result     => 0x18
  | .tagIn      => 0x1C
  | .srcLen     => 0x20
  | .outLen     => 0x24
  | .capIn      => 0x28
  | .capPayload => 0x2C
  | .capOut     => 0x30

/-- The register at an offset; none at the reserved offsets 0x34, 0x38, 0x3C (R33) and wherever no register starts. -/
def regAt (offset : Nat) : Option RegName :=
  match offset with
  | 0x00 => some .id
  | 0x04 => some .cmd
  | 0x08 => some .status
  | 0x0C => some .errCode
  | 0x10 => some .errInfo0
  | 0x14 => some .errInfo1
  | 0x18 => some .result
  | 0x1C => some .tagIn
  | 0x20 => some .srcLen
  | 0x24 => some .outLen
  | 0x28 => some .capIn
  | 0x2C => some .capPayload
  | 0x30 => some .capOut
  | _    => none

/-- Bytes in the REG space (R70). -/
def regSize : Nat := 0x40

def Direction.isWrite : Direction → Bool
  | .read    => false
  | .write _ => true

/-- How many bytes a space has (R70). -/
def spaceSize (c : Config) : Space → Nat
  | .reg    => regSize
  | .inBuf  => c.inSize
  | .outBuf => c.outSize

/-- Where the platform places a space (R70, the parameters of R10). -/
def spaceBase (c : Config) : Space → Nat
  | .reg    => c.regBase
  | .inBuf  => c.inBase
  | .outBuf => c.outBase

/-- The bus errors of R66. -/
def busError (c : Config) (a : Access) : Bool :=
  match a.space with
  | .reg    => a.offset % 4 != 0 || a.width != 32 || decide (regSize ≤ a.offset)
  | .inBuf  => a.width != 8 || decide (c.inSize ≤ a.offset)
  | .outBuf => a.width != 8 || decide (c.outSize ≤ a.offset) || a.dir.isWrite

/-- The two accesses R236 allows while BUSY = 1: reads of STATUS and of ID. -/
def allowedWhileBusy (a : Access) : Bool :=
  a.space == .reg && !a.dir.isWrite && (a.offset == RegName.status.offset || a.offset == RegName.id.offset)

/-- A write to the CMD register. -/
def isCmdWrite (a : Access) : Bool :=
  a.space == .reg && a.dir.isWrite && a.offset == RegName.cmd.offset

/-- The platform address of a byte of a space (R70). -/
def platformAddress (c : Config) (sp : Space) (offset : Nat) : Nat := spaceBase c sp + offset

/-- Which byte of which space a platform address names; none where the block has no byte (log entry 13, DESIGN CHOICE). -/
def locate (c : Config) (addr : Nat) : Option (Space × Nat) :=
  if c.regBase ≤ addr ∧ addr < c.regBase + regSize then some (.reg, addr - c.regBase)
  else if c.inBase ≤ addr ∧ addr < c.inBase + c.inSize then some (.inBuf, addr - c.inBase)
  else if c.outBase ≤ addr ∧ addr < c.outBase + c.outSize then some (.outBuf, addr - c.outBase)
  else none

end Sys2Proof.Machine
end

