-- ==== Sys2Proof/Machine/HostProgram.lean ====
section
/-! DEFINITION. The host agent (10_state.md R20): its program in the host assembly of 30_encoding.md R88, the
pseudo-instructions of R89, and the choice of which agent moves next. -/

namespace Sys2Proof.Machine

/-- A label of a host program. The spec writes names; only their equality matters, so numbers stand for them. -/
abbrev Label := Nat

/-- One line of host assembly (R88). -/
inductive HostLine where
  /-- `WR <REG>, <imm32>` -/
  | wr (r : RegName) (v : Word)
  /-- `RD <REG>` -/
  | rd (r : RegName)
  /-- `WRB IN[<off>], <imm8>` -/
  | wrb (offset : Nat) (b : Byte)
  /-- `RDB IN[<off>]` -/
  | rdbIn (offset : Nat)
  /-- `RDB OUT[<off>]` -/
  | rdbOut (offset : Nat)
  /-- `CMD <MNEMONIC>`: the same as `WR CMD, <OPCODE>` -/
  | cmd (i : Instr)
  /-- `<label>:` -/
  | label (l : Label)
  /-- `BIT1 <v>, <bit>, <label>`, where `<v>` is the last value read -/
  | bit1 (bit : Nat) (l : Label)
  /-- A bus transaction written out, (space, offset, width, direction, data): the ones R88's mnemonics cannot name (R66). -/
  | access (a : Access)
  /-- A bus transaction at a platform address (R70). -/
  | bus (addr width : Nat) (dir : Direction)
  deriving DecidableEq, Repr

/-- Who moves in one step. The spec fixes no order beyond weak fairness of the engine (R241); State lists the choices
still to be made (log entry 5). -/
inductive Turn where
  /-- The host performs its next line. -/
  | host
  /-- The engine takes its step, if BUSY = 1 (R86). -/
  | engine
  /-- The platform asserts RESET (R230). -/
  | reset
  deriving DecidableEq, Repr

/-- The host agent: its program, its position in it, and the last value it read (which `BIT1` tests, R88; before the first
read, the value of log entry 7). -/
structure HostAgent where
  prog     : List HostLine
  pc       : Nat
  lastRead : Word
  deriving DecidableEq, Repr

/-- `WAIT` (R89): poll STATUS until BUSY = 0. The label must be the program's own. -/
def waitLines (l : Label) : List HostLine :=
  [.label l, .rd .status, .bit1 0 l]

/-- `ISSUE <MNEMONIC>` (R89). -/
def issueLines (i : Instr) (l : Label) : List HostLine :=
  .cmd i :: waitLines l

/-- `WRB IN[i], <byte i>` for the bytes of a list, from an offset on. -/
def wrbLines : Nat → List Byte → List HostLine
  | _, []      => []
  | a, b :: bs => .wrb a b :: wrbLines (a + 1) bs

/-- `LOADIN` (R89): the bytes into IN from offset 0, then their count into SRC_LEN. -/
def loadInLines (bs : List Byte) : List HostLine :=
  wrbLines 0 bs ++ [.wr .srcLen (BitVec.ofNat 32 bs.length)]

/-- The line a label marks: the first that carries it. -/
def findLabel (prog : List HostLine) (l : Label) : Option Nat :=
  match prog with
  | []           => none
  | line :: rest => if line = .label l then some 0 else (findLabel rest l).map (· + 1)

/-- Where a `BIT1` at position pc goes when it branches: to its label, or, where the program defines no such label, to a
line of which the spec says nothing (a free value, log entry 8). -/
def branchTarget (prog : List HostLine) (pc : Nat) (l : Label) : Nat :=
  (findLabel prog l).getD (Config.missingLabelLine pc l)

/-- The bit `BIT1` tests; a bit the 32-bit value does not have is a free value (log entry 18). -/
def testedBit (v : Word) (bit : Nat) : Bool :=
  if bit < 32 then v.getLsbD bit else Config.missingBit bit v

end Sys2Proof.Machine
end

