-- ==== Sys2Proof/Machine/State.lean ====
section
/-! DEFINITION. The state of the block and of its host, as plain data (10_state.md; the list is INVENTORY.md's), its
reset values, and the reasons a step can stop. -/

namespace Sys2Proof.Machine

/-- The error kinds of 60_exceptions.md R200. No constructor exists for the codes that are never written (U11);
`payloadNotUtf8` is reserved, and nothing here produces it (R201). -/
inductive ErrCode where
  | none
  | tagLength
  | tagInvalidCharacter
  | chunkInputTooSmall
  | chunkInvalidTagType
  | chunkBounds
  | chunkInvalidCrc
  | payloadNotUtf8
  | illegalCmd
  | noTag
  | noChunk
  | srcRange
  deriving DecidableEq, Repr

/-- A 4-byte string `[b0, b1, b2, b3]` (R13): a tag, or a big-endian field of the wire image. -/
structure Bytes4 where
  b0 : Byte
  b1 : Byte
  b2 : Byte
  b3 : Byte
  deriving DecidableEq, Repr

/-- A TypeTag's value: 4 bytes, any values (R35). -/
abbrev Tag := Bytes4

/-- The bytes a buffer holds: cells in strictly rising address order. An address with no cell has no value (U1, U2; log
entry 3, safe): a read of it is the fault R39 or R40 names. -/
abbrev Memory := List Host.Cell

/-- The canonical form of a memory: addresses strictly rising. (No cell can equal what an unlisted address reads as,
since that is no value.) -/
abbrev Memory.wf (m : Memory) : Prop := List.Pairwise (fun x y => x.1 < y.1) m

/-- Everything the spec gives the machine: the block's registers, slots and buffers, its parameters, the host agent and
the order in which the agents are still to move. -/
structure State where
  /-- The parameters of R10; no step changes them (log entry 1). -/
  cfg : Config
  /-- BUSY (R38). -/
  busy : Bool
  /-- PENDING (R38), meaningful only while BUSY = 1. -/
  pending : Word
  /-- ERR_CODE (R25). -/
  errCode : ErrCode
  /-- ERR_INFO0 (R26). -/
  errInfo0 : Word
  /-- ERR_INFO1 (R27). -/
  errInfo1 : Word
  /-- RESULT (R28). -/
  result : Word
  /-- TAG_IN (R29). -/
  tagIn : Word
  /-- SRC_LEN (R30). -/
  srcLen : Word
  /-- OUT_LEN (R31). -/
  outLen : Word
  /-- TAG_PRESENT (R35). -/
  tagPresent : Bool
  /-- TAG (R35), not observable while TAG_PRESENT = 0. -/
  tag : Tag
  /-- CH_VALID (R36). -/
  chValid : Bool
  /-- CH_TAG (R36); with CH_LEN and CH_PAYLOAD not observable while CH_VALID = 0. -/
  chTag : Tag
  /-- CH_LEN (R36). -/
  chLen : Nat
  /-- CH_PAYLOAD (R36): all PAYLOAD_SIZE bytes, of which the first CH_LEN are the payload. -/
  chPayload : List Byte
  /-- The IN buffer (R39). -/
  inBuf : Memory
  /-- The OUT buffer (R40). -/
  outBuf : Memory
  /-- The host (R20). -/
  host : HostAgent
  /-- The order in which the agents are still to move, the model's own field (R241, log entry 5). -/
  turns : List Turn
  deriving DecidableEq, Repr

/-- The faults of a run (60_exceptions.md R213). Each ends the run, which makes it sticky; all are safe, since a claim
about a run that faults cannot be proved. -/
inductive Fault where
  /-- BUS_ERROR: raised by the host's access (`hostAccess`) where R66 lists it. Safe. -/
  | busError
  /-- HAZARD: raised by the host's access (`hostAccess`) while BUSY = 1, other than a read of STATUS or ID or a CMD write
  (R236). Safe. -/
  | hazard
  /-- CMD_WHILE_BUSY: raised by the host's access (`hostAccess`), a CMD write while BUSY = 1 (R237). Safe. -/
  | cmdWhileBusy
  /-- UNINIT_READ: raised by the host's access (`hostAccess`) or by a command that reads IN (`withIn`, `withIn4`), a read
  of an IN byte not written since reset (R39). Safe. -/
  | uninitRead
  /-- STALE_READ: raised by the host's access (`hostAccess`), a read of OUT at an offset ≥ OUT_LEN (R40). Safe. -/
  | staleRead
  deriving DecidableEq, Repr

/-- What the model declines to give a meaning. None is raised by a command that has its meaning. -/
inductive Refusal where
  /-- Raised by `exec`'s arm of a command with no meaning yet; the arms have all got theirs. Safe. -/
  | notModelled (mnemonic : String)
  /-- Raised by the host's access at a platform address where the block has no byte (`runLine`): what answers there is
  not the block (R70, log entry 13). Safe. -/
  | hostOutsideBlock
  deriving DecidableEq, Repr

/-- How a step or a command ends. -/
abbrev Outcome := Host.Outcome State Fault Refusal

/-- A host with a program still to run from its first line. The spec gives the "last value read" of a host that has read
nothing no value: it is zero (log entry 7, DESIGN CHOICE, unsafe for a claim about a `BIT1` before any read). -/
def HostAgent.start (prog : List HostLine) : HostAgent := { prog := prog, pc := 0, lastRead := 0x00000000 }

/-- The machine after RESET with given parameters (R231, R42, the table of 10_state.md section 3). PENDING, TAG, CH_TAG,
CH_LEN and CH_PAYLOAD have no reset value in the spec and are zero here: DESIGN CHOICE (log entry 2), unsafe for a claim
that reads them while they are not observable. -/
def State.resetWith (c : Config) : State where
  cfg        := c
  busy       := false
  pending    := 0x00000000
  errCode    := .none
  errInfo0   := 0x00000000
  errInfo1   := 0x00000000
  result     := 0x00000000
  tagIn      := 0x00000000
  srcLen     := 0x00000000
  outLen     := 0x00000000
  tagPresent := false
  tag        := { b0 := 0x00, b1 := 0x00, b2 := 0x00, b3 := 0x00 }
  chValid    := false
  chTag      := { b0 := 0x00, b1 := 0x00, b2 := 0x00, b3 := 0x00 }
  chLen      := 0
  chPayload  := List.replicate c.payloadSize 0x00
  inBuf      := []
  outBuf     := []
  host       := HostAgent.start []
  turns      := []

/-- The machine right after reset, with the parameters of the spec's vectors (log entry 1). -/
def State.reset : State := State.resetWith Config.vectors

end Sys2Proof.Machine
end

