-- ==== Sys2Proof/Machine/Operands.lean ====
section
/-! DEFINITION. How operands are read and marshalled: big-endian integers and packed tags (20_memory.md R60 to R64),
reads and writes of a buffer (00_scope.md R14), the byte-string operand (30_encoding.md R81), and the checksum function
(42_crc32.md R140). -/

namespace Sys2Proof.Machine

/-- `zext_32` of R12. -/
def zext32 (b : Byte) : Word := b.setWidth 32

/-- The byte string of a 4-byte string (R13). -/
def Bytes4.toList (s : Bytes4) : List Byte := [s.b0, s.b1, s.b2, s.b3]

/-- `be32_decode` of R61: the first byte is the most significant. -/
def be32Decode (s : Bytes4) : Word :=
  (zext32 s.b0 <<< 24) ||| (zext32 s.b1 <<< 16) ||| (zext32 s.b2 <<< 8) ||| zext32 s.b3

/-- `be32_encode` of R62. -/
def be32Encode (v : Word) : Bytes4 :=
  { b0 := v.extractLsb' 24 8, b1 := v.extractLsb' 16 8, b2 := v.extractLsb' 8 8, b3 := v.extractLsb' 0 8 }

/-- `pack_tag` of R64. -/
def packTag (t : Tag) : Word := be32Decode t

/-- `unpack_tag` of R64. -/
def unpackTag (w : Word) : Tag := be32Encode w

/-- A length as the register value that carries it (R10: every length fits in 32 bits). -/
def lengthWord (n : Nat) : Word := BitVec.ofNat 32 n

/-- One byte of a memory; none where it has no value. -/
def Memory.read : Memory → Nat → Option Byte
  | [], _          => none
  | (k, b) :: m, a => if k = a then some b else Memory.read m a

/-- Store one byte, keeping the addresses rising. -/
def Memory.write : Memory → Nat → Byte → Memory
  | [], a, b          => [(a, b)]
  | (k, c) :: m, a, b =>
    if a < k then (a, b) :: (k, c) :: m
    else if a = k then (a, b) :: m
    else (k, c) :: Memory.write m a b

/-- `MemRead` of R14: n bytes from offset a; none where one of them has no value. -/
def Memory.readBytes (m : Memory) (a : Nat) : Nat → Option (List Byte)
  | 0     => some []
  | n + 1 =>
    match m.read a, Memory.readBytes m (a + 1) n with
    | some b, some bs => some (b :: bs)
    | _, _            => none

/-- `MemWrite` of R14. -/
def Memory.writeBytes (m : Memory) (a : Nat) : List Byte → Memory
  | []      => m
  | b :: bs => Memory.writeBytes (m.write a b) (a + 1) bs

/-- `MemRead` of four bytes. -/
def Memory.read4 (m : Memory) (a : Nat) : Option Bytes4 :=
  match m.read a, m.read (a + 1), m.read (a + 2), m.read (a + 3) with
  | some b0, some b1, some b2, some b3 => some { b0 := b0, b1 := b1, b2 := b2, b3 := b3 }
  | _, _, _, _                         => none

/-- A command's `MemRead(IN, a, n)`: UNINIT_READ where a byte has not been written since reset (R39). The whole string is
read before the command goes on (log entry 16, DEDUCED, safe). -/
def withIn (s : State) (a n : Nat) (k : List Byte → Outcome) : Outcome :=
  match s.inBuf.readBytes a n with
  | some bs => k bs
  | none    => .fault .uninitRead

/-- A command's `MemRead(IN, a, 4)`. -/
def withIn4 (s : State) (a : Nat) (k : Bytes4 → Outcome) : Outcome :=
  match s.inBuf.read4 a with
  | some t => k t
  | none   => .fault .uninitRead

/-- The chunk's payload, `CH_PAYLOAD[0..CH_LEN)` (R36). -/
def State.payload (s : State) : List Byte := s.chPayload.take s.chLen

/-- One bit of the computation of R140. -/
def crcBit (c : Word) : Word :=
  if c.getLsbD 0 then (c >>> 1) ^^^ 0xEDB88320 else c >>> 1

/-- One input byte of R140: it enters at the low end, then eight bits are shifted out. -/
def crcByte (c : Word) (b : Byte) : Word := Nat.repeat crcBit 8 (c ^^^ zext32 b)

/-- `crc32` of R140. -/
def crc32 (s : List Byte) : Word := s.foldl crcByte 0xFFFFFFFF ^^^ 0xFFFFFFFF

/-- The checksum of a chunk, over tag ‖ payload (R144, R160). -/
def chunkCrc (t : Tag) (p : List Byte) : Word := crc32 (t.toList ++ p)

/-- The wire image of a chunk (R161). -/
def wire (t : Tag) (p : List Byte) : List Byte :=
  (be32Encode (lengthWord p.length)).toList ++ t.toList ++ p ++ (be32Encode (chunkCrc t p)).toList

end Sys2Proof.Machine
end

