-- ==== Sys2Proof/Machine/Flags.lean ====
section
/-! DEFINITION. Every flag the spec gives: the character classes (00_scope.md R17), the tag's validity and its four
flags (41_typetag.md R100, R101), and the STATUS word with the codes ERR_CODE shows (10_state.md R24, R25). -/

namespace Sys2Proof.Machine

/-- `is_upper` of R17. -/
def isUpper (b : Byte) : Bool := decide (0x41 ≤ b.toNat) && decide (b.toNat ≤ 0x5A)

/-- `is_lower` of R17. -/
def isLower (b : Byte) : Bool := decide (0x61 ≤ b.toNat) && decide (b.toNat ≤ 0x7A)

/-- `is_alpha` of R17. -/
def isAlpha (b : Byte) : Bool := isUpper b || isLower b

/-- All four bytes are ASCII letters (R100, R103). -/
def allAlpha (t : Tag) : Bool := isAlpha t.b0 && isAlpha t.b1 && isAlpha t.b2 && isAlpha t.b3

/-- `is_valid` of R100. -/
def isValid (t : Tag) : Bool := allAlpha t && isUpper t.b2

/-- "Upper case" under FLAG_CASE_RULE (R101). -/
def flagUpper (rule : FlagCaseRule) (b : Byte) : Bool :=
  match rule with
  | .asciiCase => isUpper b
  | .bit5      => !b.getLsbD 5

/-- "Lower case" under FLAG_CASE_RULE (R101). -/
def flagLower (rule : FlagCaseRule) (b : Byte) : Bool :=
  match rule with
  | .asciiCase => isLower b
  | .bit5      => b.getLsbD 5

/-- `is_critical` of R101: byte 0, upper case. -/
def isCritical (rule : FlagCaseRule) (t : Tag) : Bool := flagUpper rule t.b0

/-- `is_public` of R101: byte 1, upper case. -/
def isPublic (rule : FlagCaseRule) (t : Tag) : Bool := flagUpper rule t.b1

/-- `is_reserved_bit_valid` of R101: byte 2, upper case. -/
def isReservedBitValid (rule : FlagCaseRule) (t : Tag) : Bool := flagUpper rule t.b2

/-- `is_safe_to_copy` of R101: byte 3, lower case. -/
def isSafeToCopy (rule : FlagCaseRule) (t : Tag) : Bool := flagLower rule t.b3

/-- A predicate's RESULT: 1 or 0 (R41). -/
def boolWord (p : Bool) : Word := if p then 1 else 0

/-- The value ERR_CODE reads (R25, the code column of R200). -/
def errWord : ErrCode → Word
  | .none                => 0x00
  | .tagLength           => 0x01
  | .tagInvalidCharacter => 0x02
  | .chunkInputTooSmall  => 0x03
  | .chunkInvalidTagType => 0x04
  | .chunkBounds         => 0x05
  | .chunkInvalidCrc     => 0x06
  | .payloadNotUtf8      => 0x07
  | .illegalCmd          => 0x10
  | .noTag               => 0x11
  | .noChunk             => 0x12
  | .srcRange            => 0x13

/-- STATUS.ERR (R24): the last completed command failed. -/
def State.err (s : State) : Bool := decide (s.errCode ≠ .none)

/-- STATUS (R24): BUSY, ERR, CH_VALID and TAG_PRESENT in bits 0 to 3, the rest 0. -/
def statusWord (s : State) : Word :=
  boolWord s.busy ||| (boolWord s.err <<< 1) ||| (boolWord s.chValid <<< 2) ||| (boolWord s.tagPresent <<< 3)

end Sys2Proof.Machine
end

