-- ==== Sys2Proof/Machine/Ops.lean ====
section
/-! DEFINITION. The named operations the meanings are written over: the updates of the slots, the result and OUT, the
two ways a command ends (60_exceptions.md R202, R203), the issue and the end of a command (30_encoding.md R85, R86),
RESET (70_reset_and_hazards.md R231), and the reads and writes of the host-visible registers (10_state.md section 3). -/

namespace Sys2Proof.Machine

/-- Write ERR_CODE, ERR_INFO0 and ERR_INFO1, as every completion does (R25). -/
def State.withErr (s : State) (e : ErrCode) (i0 i1 : Word) : State :=
  { s with errCode := e, errInfo0 := i0, errInfo1 := i1 }

/-- A command's scalar result (R28). -/
def State.withResult (s : State) (w : Word) : State := { s with result := w }

/-- Replace the tag slot's tag as a whole (R35). -/
def State.withTag (s : State) (t : Tag) : State := { s with tag := t, tagPresent := true }

/-- Invalidate the tag slot: only TAG_PRESENT is written (R103). -/
def State.dropTag (s : State) : State := { s with tagPresent := false }

/-- Write all four parts of the chunk slot (R36). Bytes of CH_PAYLOAD beyond the payload keep their old values (log
entry 15, DEDUCED, unsafe only for a claim that reads them; no command does). -/
def State.withChunk (s : State) (t : Tag) (p : List Byte) : State :=
  { s with chValid := true, chTag := t, chLen := p.length, chPayload := p ++ s.chPayload.drop p.length }

/-- Invalidate the chunk slot: only CH_VALID is written (R162, R163). -/
def State.dropChunk (s : State) : State := { s with chValid := false }

/-- Write OUT and OUT_LEN (R31, R40). -/
def State.withOut (s : State) (m : Memory) (n : Nat) : State := { s with outBuf := m, outLen := lengthWord n }

/-- `raise E(i0, i1)` of R202, the ONE way a command reports an error. It is given the state before the command with at
most the slot invalidation the command's rule states, so that no other write of the command is kept (R16). An error is no
trap: nothing is saved, and there is no return from it (R206). -/
def raise (e : ErrCode) (i0 i1 : Word) (s : State) : Outcome := .next (s.withErr e i0 i1)

/-- `complete()` of R203: the command's writes are kept and the error report is cleared. -/
def complete (s : State) : Outcome := .next (s.withErr .none 0 0)

/-- A command that reads the tag slot raises NO_TAG while TAG_PRESENT = 0 (R204). -/
def needTag (s : State) (k : Tag → Outcome) : Outcome :=
  if s.tagPresent then k s.tag else raise .noTag 0 0 s

/-- A chunk accessor raises NO_CHUNK while CH_VALID = 0 (R204). -/
def needChunk (s : State) (k : Tag → List Byte → Outcome) : Outcome :=
  if s.chValid then k s.chTag s.payload else raise .noChunk 0 0 s

/-- A predicate of the tag slot, read into RESULT as 0 or 1 (R41). -/
def tagPredicate (p : Tag → Bool) (s : State) : Outcome :=
  needTag s fun t => complete (s.withResult (boolWord (p t)))

/-- A host CMD write while BUSY = 0 (R85). -/
def State.issue (s : State) (w : Word) : State := { s with pending := w, busy := true }

/-- `BUSY <- 0`, the end of the engine's step (R86). PENDING keeps the finished command's word (log entry 14, DESIGN
CHOICE, unobservable by U5). -/
def State.idle (s : State) : State := { s with busy := false }

/-- The engine's answer to an illegal command word (R83, R87): the word goes to ERR_INFO0 (R205). -/
def illegalCommand (s : State) : Outcome := raise .illegalCmd s.pending 0 s

/-- RESET (R231, R232): the whole block as after power-on, whatever was in flight. The host and the turns to come are
not part of the block (log entry 4). -/
def State.applyReset (s : State) : State :=
  { State.resetWith s.cfg with host := s.host, turns := s.turns }

/-- The constant ID reads (R22). -/
def idValue : Word := 0x504E4743

/-- A host read of a register (R22 to R32). CMD reads 0 (R23, R34). -/
def readReg (s : State) : RegName → Word
  | .id         => idValue
  | .cmd        => 0
  | .status     => statusWord s
  | .errCode    => errWord s.errCode
  | .errInfo0   => s.errInfo0
  | .errInfo1   => s.errInfo1
  | .result     => s.result
  | .tagIn      => s.tagIn
  | .srcLen     => s.srcLen
  | .outLen     => s.outLen
  | .capIn      => lengthWord s.cfg.inSize
  | .capPayload => lengthWord s.cfg.payloadSize
  | .capOut     => lengthWord s.cfg.outSize

/-- A host write of a register while BUSY = 0: CMD issues (R85), TAG_IN and SRC_LEN hold what is written (R29, R30), every
other register ignores it (R34). -/
def writeReg (s : State) (r : RegName) (v : Word) : State :=
  match r with
  | .cmd        => s.issue v
  | .tagIn      => { s with tagIn := v }
  | .srcLen     => { s with srcLen := v }
  | .id         => s
  | .status     => s
  | .errCode    => s
  | .errInfo0   => s
  | .errInfo1   => s
  | .result     => s
  | .outLen     => s
  | .capIn      => s
  | .capPayload => s
  | .capOut     => s

/-- The value a REG read gives; a reserved offset reads 0 (R33). -/
def readOffset (s : State) (offset : Nat) : Word :=
  match regAt offset with
  | some r => readReg s r
  | none   => 0

/-- What a REG write does; a write to a reserved offset is ignored (R33). -/
def writeOffset (s : State) (offset : Nat) (v : Word) : State :=
  match regAt offset with
  | some r => writeReg s r v
  | none   => s

end Sys2Proof.Machine
end

