-- ==== Sys2Proof/Machine/Checksum.lean ====
section
/-! DEFINITION. The CRC-32 generator's command (42_crc32.md). -/

namespace Sys2Proof.Machine

/-- CRC32_RAW (R143): neither slot is read or written. -/
def execCrc32Raw (s : State) : Outcome :=
  if s.srcLen.toNat > s.cfg.inSize then raise .srcRange s.srcLen 0 s
  else withIn s 0 s.srcLen.toNat fun bs => complete (s.withResult (crc32 bs))

end Sys2Proof.Machine
end

