-- ==== Sys2Proof/Machine/Chunk.lean ====
section
/-! DEFINITION. The frame parser, the serializer and the chunk accessors (43_chunk.md). -/

namespace Sys2Proof.Machine

/-- CHUNK_NEW (R162): no tag validity check (R111). -/
def execChunkNew (s : State) : Outcome :=
  if s.tagPresent = false then raise .noTag 0 0 s.dropChunk
  else if s.srcLen.toNat > s.cfg.inSize then raise .srcRange s.srcLen 0 s.dropChunk
  else withIn s 0 s.srcLen.toNat fun p => complete (s.withChunk s.tag p)

/-- Steps 4 to 7 of CHUNK_PARSE (R163), once the tag has passed: L is SRC_LEN, n the declared length. -/
def parseBody (s : State) (L n : Nat) (t : Tag) : Outcome :=
  if n > L - 12 then raise .chunkBounds 0 0 s.dropChunk
  else withIn s 8 n fun p => withIn4 s (8 + n) fun c =>
    if be32Decode c = chunkCrc t p then complete ((s.withChunk t p).withResult (lengthWord (12 + n)))
    else raise .chunkInvalidCrc (be32Decode c) (chunkCrc t p) s.dropChunk

/-- CHUNK_PARSE (R163): the checks in the source's step order. The payload and checksum bytes are read only after the tag
and the bounds have passed, and no byte at offset 12+N or above is read (R164). The tag slot is not written (D22). -/
def execChunkParse (s : State) : Outcome :=
  if s.srcLen.toNat > s.cfg.inSize then raise .srcRange s.srcLen 0 s.dropChunk
  else if s.srcLen.toNat < 12 then raise .chunkInputTooSmall 0 0 s.dropChunk
  else withIn4 s 0 fun declared => withIn4 s 4 fun t =>
    if isValid t then parseBody s s.srcLen.toNat (be32Decode declared).toNat t
    else raise .chunkInvalidTagType 0 0 s.dropChunk

/-- OUT after the four `MemWrite`s of CHUNK_SERIALIZE (R165), for CH_LEN = n. -/
def serializeTo (m : Memory) (n : Nat) (t : Tag) (p : List Byte) : Memory :=
  (((m.writeBytes 0 (be32Encode (lengthWord n)).toList).writeBytes 4 t.toList).writeBytes 8 p).writeBytes (8 + n)
    (be32Encode (chunkCrc t p)).toList

/-- CHUNK_SERIALIZE (R165). -/
def execChunkSerialize (s : State) : Outcome :=
  needChunk s fun t p => complete (s.withOut (serializeTo s.outBuf s.chLen t p) (12 + s.chLen))

/-- CHUNK_LENGTH (R170). -/
def execChunkLength (s : State) : Outcome :=
  needChunk s fun _ _ => complete (s.withResult (lengthWord s.chLen))

/-- CHUNK_TYPE (R171): the chunk's tag goes to the tag slot and to RESULT. -/
def execChunkType (s : State) : Outcome :=
  needChunk s fun t _ => complete ((s.withTag t).withResult (packTag t))

/-- CHUNK_DATA (R172). -/
def execChunkData (s : State) : Outcome :=
  needChunk s fun _ p => complete (s.withOut (s.outBuf.writeBytes 0 p) s.chLen)

/-- CHUNK_CRC (R173): recomputed on every call (R77). -/
def execChunkCrc (s : State) : Outcome :=
  needChunk s fun t p => complete (s.withResult (chunkCrc t p))

end Sys2Proof.Machine
end

