-- ==== Sys2Proof/Machine/Control.lean ====
section
/-! DEFINITION. The control command (40_control.md). -/

namespace Sys2Proof.Machine

/-- NOP (R90): clears the error report. -/
def execNop (s : State) : Outcome := complete s

end Sys2Proof.Machine
end

