-- ==== Sys2Proof/Machine/TypeTag.lean ====
section
/-! DEFINITION. The TypeTag validator's commands (41_typetag.md). -/

namespace Sys2Proof.Machine

/-- TAG_FROM_BYTES (R102): stores the bytes verbatim. -/
def execTagFromBytes (s : State) : Outcome := complete (s.withTag (unpackTag s.tagIn))

/-- TAG_FROM_TEXT (R103): the length is checked before any byte is read (D19). -/
def execTagFromText (s : State) : Outcome :=
  if s.srcLen.toNat ≠ 4 then raise .tagLength s.srcLen 0 s.dropTag
  else withIn4 s 0 fun t =>
    if allAlpha t then complete (s.withTag t) else raise .tagInvalidCharacter 0 0 s.dropTag

/-- TAG_BYTES (R104). -/
def execTagBytes (s : State) : Outcome := needTag s fun t => complete (s.withResult (packTag t))

/-- TAG_IS_VALID (R105). -/
def execTagIsValid (s : State) : Outcome := tagPredicate isValid s

/-- TAG_IS_CRITICAL (R106). -/
def execTagIsCritical (s : State) : Outcome := tagPredicate (isCritical s.cfg.flagCase) s

/-- TAG_IS_PUBLIC (R107). -/
def execTagIsPublic (s : State) : Outcome := tagPredicate (isPublic s.cfg.flagCase) s

/-- TAG_IS_RESERVED_BIT_VALID (R108). -/
def execTagIsReservedBitValid (s : State) : Outcome := tagPredicate (isReservedBitValid s.cfg.flagCase) s

/-- TAG_IS_SAFE_TO_COPY (R109). -/
def execTagIsSafeToCopy (s : State) : Outcome := tagPredicate (isSafeToCopy s.cfg.flagCase) s

/-- TAG_EQ (R110): exact on all 32 bits. -/
def execTagEq (s : State) : Outcome := tagPredicate (fun t => decide (t = unpackTag s.tagIn)) s

end Sys2Proof.Machine
end

