-- ==== Sys2Proof/Machine/Dispatch.lean ====
section
/-! DEFINITION. From each command to its meaning, one arm a command (30_encoding.md R87). -/

namespace Sys2Proof.Machine

def exec (i : Instr) (s : State) : Host.Outcome State Fault Refusal :=
  match i with
  | .nop => Sys2Proof.Machine.execNop s
  | .tagFromBytes => Sys2Proof.Machine.execTagFromBytes s
  | .tagFromText => Sys2Proof.Machine.execTagFromText s
  | .tagBytes => Sys2Proof.Machine.execTagBytes s
  | .tagIsValid => Sys2Proof.Machine.execTagIsValid s
  | .tagIsCritical => Sys2Proof.Machine.execTagIsCritical s
  | .tagIsPublic => Sys2Proof.Machine.execTagIsPublic s
  | .tagIsReservedBitValid => Sys2Proof.Machine.execTagIsReservedBitValid s
  | .tagIsSafeToCopy => Sys2Proof.Machine.execTagIsSafeToCopy s
  | .tagEq => Sys2Proof.Machine.execTagEq s
  | .crc32Raw => Sys2Proof.Machine.execCrc32Raw s
  | .chunkNew => Sys2Proof.Machine.execChunkNew s
  | .chunkParse => Sys2Proof.Machine.execChunkParse s
  | .chunkSerialize => Sys2Proof.Machine.execChunkSerialize s
  | .chunkLength => Sys2Proof.Machine.execChunkLength s
  | .chunkType => Sys2Proof.Machine.execChunkType s
  | .chunkData => Sys2Proof.Machine.execChunkData s
  | .chunkCrc => Sys2Proof.Machine.execChunkCrc s

end Sys2Proof.Machine
end

