-- ==== Sys2Proof/Machine/Engine.lean ====
section
/-! DEFINITION. The engine's step (30_encoding.md R86). -/

namespace Sys2Proof.Machine

/-- The end of the engine's step: `BUSY <- 0` after the command's own `complete()` or `raise` (R86). -/
def finishCommand (o : Outcome) : Outcome :=
  match o with
  | .next s    => .next s.idle
  | .fault f   => .fault f
  | .refused r => .refused r

/-- PENDING decoded and carried out (R87). -/
def runPending (s : State) : Outcome :=
  match decode s.pending with
  | .ok i    => exec i s
  | .error _ => illegalCommand s

/-- The engine's turn: enabled iff BUSY = 1 (R86); an idle engine has no step (R212), so its turn passes (log entry 6). -/
def engineTurn (s : State) : Outcome :=
  if s.busy then finishCommand (runPending s) else .next s

end Sys2Proof.Machine
end

