-- ==== Sys2Proof/Machine/HostPort.lean ====
section
/-! DEFINITION. The host's step: one access to the block (20_memory.md R63 to R69), and one line of its program
(30_encoding.md R88). -/

namespace Sys2Proof.Machine

/-- What a host access answers: a fault of R213, or the state after it and, for a read, the value read. Where one access
meets the causes of several faults the spec gives no order: the model reports BUS_ERROR before HAZARD, and either of them
before UNINIT_READ and STALE_READ (log entry 10, DESIGN CHOICE: safe for claims that a run does not fault, unsafe for a claim
that names the fault). -/
def hostAccess (s : State) (a : Access) : Except Fault (State × Option Word) :=
  if busError s.cfg a then .error .busError
  else if s.busy && !allowedWhileBusy a then .error (if isCmdWrite a then .cmdWhileBusy else .hazard)
  else
    match a.space, a.dir with
    | .reg, .read       => .ok (s, some (readOffset s a.offset))
    | .reg, .write v    => .ok (writeOffset s a.offset v, none)
    | .inBuf, .read     =>
      match s.inBuf.read a.offset with
      | some b => .ok (s, some (zext32 b))
      | none   => .error .uninitRead
    | .inBuf, .write v  => .ok ({ s with inBuf := s.inBuf.write a.offset (v.setWidth 8) }, none)
    | .outBuf, .read    =>
      if a.offset < s.outLen.toNat then
        match s.outBuf.read a.offset with
        | some b => .ok (s, some (zext32 b))
        | none   => .error .staleRead
      else .error .staleRead
    | .outBuf, .write _ => .error .busError

/-- The host goes to line k of its program, remembering the value it read, if it read one. -/
def State.hostAt (s : State) (k : Nat) (v : Option Word) : State :=
  { s with host := { s.host with pc := k, lastRead := v.getD s.host.lastRead } }

/-- A line that is one bus transaction: the access, then the next line. -/
def transact (s : State) (a : Access) : Outcome :=
  match hostAccess s a with
  | .ok (t, v) => .next (t.hostAt (s.host.pc + 1) v)
  | .error f   => .fault f

/-- `BIT1` (R88): the host's own control flow, in which the block takes no part. If the tested bit is 0 the host goes on to
the next line, whatever the label. -/
def branchOnBit (s : State) (bit : Nat) (l : Label) : Outcome :=
  .next (s.hostAt (if testedBit s.host.lastRead bit then branchTarget s.host.prog s.host.pc l else s.host.pc + 1) none)

/-- One line of host assembly (R88). A label is no transaction: the host goes on past it (log entry 9). -/
def runLine (s : State) (line : HostLine) : Outcome :=
  match line with
  | .wr r v            => transact s { space := .reg, offset := r.offset, width := 32, dir := .write v }
  | .rd r              => transact s { space := .reg, offset := r.offset, width := 32, dir := .read }
  | .wrb off b         => transact s { space := .inBuf, offset := off, width := 8, dir := .write (zext32 b) }
  | .rdbIn off         => transact s { space := .inBuf, offset := off, width := 8, dir := .read }
  | .rdbOut off        => transact s { space := .outBuf, offset := off, width := 8, dir := .read }
  | .cmd i             => transact s { space := .reg, offset := RegName.cmd.offset, width := 32, dir := .write (encode i) }
  | .label _           => .next (s.hostAt (s.host.pc + 1) none)
  | .bit1 bit l        => branchOnBit s bit l
  | .access a          => transact s a
  | .bus addr width d  =>
    match locate s.cfg addr with
    | some (sp, off) => transact s { space := sp, offset := off, width := width, dir := d }
    | none           => .refused .hostOutsideBlock

/-- The host's turn: its next line; a host whose program is over does nothing (log entry 6). -/
def hostTurn (s : State) : Outcome :=
  match s.host.prog[s.host.pc]? with
  | some line => runLine s line
  | none      => .next s

end Sys2Proof.Machine
end

