-- ==== Sys2Proof/Machine/Schedule.lean ====
section
/-! DEFINITION. Whose turn it is (70_reset_and_hazards.md R241). -/

namespace Sys2Proof.Machine

/-- The agent that moves next: the first of `turns`; when the list is used up, a busy engine, else the host. The list is
finite and arbitrary, so every finite interleaving is some state's, and a busy engine always gets its step in the end: the
weak fairness of R241 (log entry 5). -/
def State.turn (s : State) : Turn :=
  match s.turns with
  | t :: _ => t
  | []     => if s.busy then .engine else .host

/-- The turn taken off the list. -/
def State.popTurn (s : State) : State := { s with turns := s.turns.tail }

end Sys2Proof.Machine
end

