-- ==== Sys2Proof/Machine/Step.lean ====
section
/-! DEFINITION. One step of the machine: whose turn it is moves. -/

namespace Sys2Proof.Machine

/-- One step: the turn is taken from the list, and that agent moves (R20, R86, R230). -/
def step (s : State) : Host.Outcome State Fault Refusal :=
  match s.turn with
  | .host   => hostTurn s.popTurn
  | .engine => engineTurn s.popTurn
  | .reset  => .next s.popTurn.applyReset

/-- s with a command word issued (as by the host's CMD write, R85) and the engine to move next, so that the very next
step carries out exactly that command (log entry 7). -/
def State.withFetchWord (s : State) (nbits w : Nat) : State :=
  { s.issue (BitVec.ofNat 32 (w % 2 ^ nbits)) with turns := .engine :: s.turns }

end Sys2Proof.Machine
end

