-- ==== Sys2Proof/WellFormed.lean ====
section
/-! DEFINITION. What is well formed: the parameters (00_scope.md R10), a command, a host program (30_encoding.md R88). -/

namespace Sys2Proof

/-- Two windows of the platform's address map share no address. -/
def windowsDisjoint (base₁ size₁ base₂ size₂ : Nat) : Bool :=
  decide (base₁ + size₁ ≤ base₂) || decide (base₂ + size₂ ≤ base₁)

/-- The constraints of R10 on the sizes. -/
def Config.sizesOk (c : Config) : Bool :=
  decide (12 ≤ c.inSize) && decide (c.inSize ≤ c.payloadSize) && decide (c.payloadSize + 12 ≤ c.outSize) &&
    decide (c.outSize ≤ 2 ^ 32 - 1)

/-- R10 on the bases: the three spaces do not overlap. -/
def Config.basesOk (c : Config) : Bool :=
  windowsDisjoint c.regBase Machine.regSize c.inBase c.inSize &&
    windowsDisjoint c.regBase Machine.regSize c.outBase c.outSize &&
    windowsDisjoint c.inBase c.inSize c.outBase c.outSize

/-- A choice of parameters that R10 allows. -/
def Config.wf (c : Config) : Bool := c.sizesOk && c.basesOk

/-- A command has no operand (R81), so every one is well formed. -/
def Instr.wf (_ : Instr) : Bool := true

namespace Machine

/-- The labels a program defines, in order. -/
def definedLabels : List HostLine → List Label
  | []               => []
  | .label l :: rest => l :: definedLabels rest
  | _ :: rest        => definedLabels rest

/-- A line that reads something, after which `BIT1` has a value to test. -/
def HostLine.reads : HostLine → Bool
  | .rd _ | .rdbIn _ | .rdbOut _ => true
  | .access a                    => !a.dir.isWrite
  | .bus _ _ d                   => !d.isWrite
  | _                            => false

/-- Every `BIT1` tests a bit of a 32-bit value, goes to a label in `ls`, and (as `seen` says) follows a read in
the text. -/
def linesOk (ls : List Label) : Bool → List HostLine → Bool
  | _, []                    => true
  | seen, .bit1 b l :: rest  => decide (b < 32) && ls.contains l && seen && linesOk ls seen rest
  | seen, line :: rest       => linesOk ls (seen || line.reads) rest

/-- A host program R88 gives a meaning: no label defined twice, every branch to a defined label, on a bit of a 32-bit
value that has been read. -/
def hostProgramWf (prog : List HostLine) : Bool :=
  decide (definedLabels prog).Nodup && linesOk (definedLabels prog) false prog

end Machine

end Sys2Proof
end

