-- ==== Sys2Proof/Safety.lean ====
section
/-! DEFINITION. The terms claims use: the states the block can be in, and runs that do not fault. -/

namespace Sys2Proof.Machine

/-- The errors that carry a value in ERR_INFO0 (R200, R205). -/
def ErrCode.carriesInfo0 : ErrCode → Bool
  | .tagLength | .chunkInvalidCrc | .illegalCmd | .srcRange => true
  | _                                                       => false

/-- The block's consistency, which every step keeps from any state that has it. -/
structure State.Inv (s : State) : Prop where
  /-- The parameters are ones R10 allows. -/
  cfg_wf : s.cfg.wf = true
  /-- IN and OUT are in canonical form and hold bytes at their own offsets only (R39, R40). -/
  in_wf : s.inBuf.wf
  in_bound : ∀ x ∈ s.inBuf, x.1 < s.cfg.inSize
  out_wf : s.outBuf.wf
  out_bound : ∀ x ∈ s.outBuf, x.1 < s.cfg.outSize
  /-- OUT has OUT_LEN valid bytes (R31). -/
  out_len : s.outLen.toNat ≤ s.cfg.outSize
  out_filled : ∀ a, a < s.outLen.toNat → (s.outBuf.read a).isSome = true
  /-- CH_PAYLOAD is PAYLOAD_SIZE bytes, and CH_LEN is at most PAYLOAD_SIZE (R36). -/
  payload_size : s.chPayload.length = s.cfg.payloadSize
  ch_len : s.chLen ≤ s.cfg.payloadSize
  /-- PAYLOAD_NOT_UTF8 is never raised (R201). -/
  err_raised : s.errCode ≠ .payloadNotUtf8
  /-- The info registers hold 0 for every error that carries no value (R205). -/
  info0_zero : s.errCode.carriesInfo0 = false → s.errInfo0 = 0
  info1_zero : s.errCode ≠ .chunkInvalidCrc → s.errInfo1 = 0
  /-- A checksum error reports two different values (R145). -/
  crc_differ : s.errCode = .chunkInvalidCrc → s.errInfo0 ≠ s.errInfo1

/-- The state after an outcome, if there is one. -/
def stateAfter : Outcome → Option State
  | .next s    => some s
  | .fault _   => none
  | .refused _ => none

/-- The fault of an outcome, if it is one. -/
def faultOf : Outcome → Option Fault
  | .next _    => none
  | .fault f   => some f
  | .refused _ => none

/-- k steps from s end in t with no fault and no refusal. -/
def runsTo : Nat → State → State → Prop
  | 0, s, t     => s = t
  | k + 1, s, t => ∃ u, step s = .next u ∧ runsTo k u t

/-- A safe run of k steps: the faults of R213 do not occur in it. -/
def safeFor (k : Nat) (s : State) : Prop := ∃ t, runsTo k s t

end Sys2Proof.Machine
end

