-- ==== Sys2Proof/Certificates/Slice0/Obligations.lean ====
section
/-! DEFINITION. The statements for the provers. Each docstring names the rule of spec/ it formalises. -/

open Sys2Proof Sys2Proof.Machine

/-! The words the statements are written in: the rules' own formulas, apart from the model's functions. -/

namespace Sys2Proof.Stated

/-- `complete()` of R203: the error report cleared. -/
def succeeded (s : State) : State := { s with errCode := .none, errInfo0 := 0, errInfo1 := 0 }

/-- `raise E(i0, i1)` of R202. -/
def failed (s : State) (e : ErrCode) (i0 i1 : Word) : State := { s with errCode := e, errInfo0 := i0, errInfo1 := i1 }

/-- The bytes of m from offset a on are bs. -/
def bytesAre (m : Memory) (a : Nat) (bs : List Byte) : Prop := ∀ k, k < bs.length → m.read (a + k) = bs[k]?

/-- One of the n bytes of m from offset a on has not been written. -/
def unwritten (m : Memory) (a n : Nat) : Prop := ∃ k, k < n ∧ m.read (a + k) = none

/-- The number four bytes carry, most significant first (R61). -/
def be32 (s : Bytes4) : Nat := s.b0.toNat * 2 ^ 24 + s.b1.toNat * 2 ^ 16 + s.b2.toNat * 2 ^ 8 + s.b3.toNat

/-- The four bytes in order. -/
def four (s : Bytes4) : List Byte := [s.b0, s.b1, s.b2, s.b3]

/-- R17. -/
def upperCase (b : Byte) : Prop := 0x41 ≤ b.toNat ∧ b.toNat ≤ 0x5A

/-- R17. -/
def lowerCase (b : Byte) : Prop := 0x61 ≤ b.toNat ∧ b.toNat ≤ 0x7A

/-- R17. -/
def letter (b : Byte) : Prop := upperCase b ∨ lowerCase b

/-- R100. -/
def validTag (t : Tag) : Prop := letter t.b0 ∧ letter t.b1 ∧ letter t.b2 ∧ letter t.b3 ∧ upperCase t.b2

/-- "Upper case" in the two columns of R101. -/
def flagIsUpper (c : Config) (b : Byte) : Prop :=
  (c.flagCase = .asciiCase ∧ upperCase b) ∨ (c.flagCase = .bit5 ∧ b.getLsbD 5 = false)

/-- "Lower case" in the two columns of R101. -/
def flagIsLower (c : Config) (b : Byte) : Prop :=
  (c.flagCase = .asciiCase ∧ lowerCase b) ∨ (c.flagCase = .bit5 ∧ b.getLsbD 5 = true)

/-- The command whose word is w reads a property P of the tag slot into RESULT as 1 or 0, and raises NO_TAG while
TAG_PRESENT = 0; it writes nothing else but the error report. -/
def testsTag (w : Word) (i : Instr) (P : State → Prop) : Prop :=
  decode w = .ok i ∧
    ∀ s : State,
      (s.tagPresent = false → exec i s = .next (failed s .noTag 0 0)) ∧
      (s.tagPresent = true → P s → exec i s = .next (succeeded { s with result := 1 })) ∧
      (s.tagPresent = true → ¬ P s → exec i s = .next (succeeded { s with result := 0 }))

/-- A 32-bit access to REG. -/
def regAccess (offset : Nat) (d : Direction) : Access := { space := .reg, offset := offset, width := 32, dir := d }

/-- An 8-bit access to IN. -/
def inAccess (offset : Nat) (d : Direction) : Access := { space := .inBuf, offset := offset, width := 8, dir := d }

/-- An 8-bit read of OUT. -/
def outRead (offset : Nat) : Access := { space := .outBuf, offset := offset, width := 8, dir := .read }

/-- An access R66 lists as a bus error. -/
def isBusError (c : Config) (a : Access) : Prop :=
  (a.space = .reg ∧ (a.offset % 4 ≠ 0 ∨ a.width ≠ 32 ∨ 0x40 ≤ a.offset)) ∨
    (a.space = .inBuf ∧ (a.width ≠ 8 ∨ c.inSize ≤ a.offset)) ∨
    (a.space = .outBuf ∧ (a.width ≠ 8 ∨ c.outSize ≤ a.offset ∨ a.dir ≠ .read))

/-- A word R83 calls illegal. -/
def illegalWord (w : Word) : Prop :=
  w.extractLsb' 8 24 ≠ 0 ∨
    (0x0A ≤ (w.extractLsb' 0 8).toNat ∧ (w.extractLsb' 0 8).toNat ≤ 0x0F) ∨
    (0x11 ≤ (w.extractLsb' 0 8).toNat ∧ (w.extractLsb' 0 8).toNat ≤ 0x1F) ∨ 0x27 ≤ (w.extractLsb' 0 8).toNat

/-- The bus transaction R88's table gives a line, and for a platform address the one R70 gives it. -/
def transactionOf (c : Config) : HostLine → Option Access
  | .wr r v            => some (regAccess r.offset (.write v))
  | .rd r              => some (regAccess r.offset .read)
  | .wrb o b           => some (inAccess o (.write (b.setWidth 32)))
  | .rdbIn o           => some (inAccess o .read)
  | .rdbOut o          => some (outRead o)
  | .cmd i             => some (regAccess 0x04 (.write (encode i)))
  | .access a          => some a
  | .bus addr width d  => (locate c addr).map fun p => { space := p.1, offset := p.2, width := width, dir := d }
  | .label _           => none
  | .bit1 _ _          => none

/-- One bit of the CRC with the normal polynomial, most significant bit first (R141, not reflected). -/
def msbBit (c : Word) : Word := if c.getMsbD 0 then (c <<< 1) ^^^ 0x04C11DB7 else c <<< 1

/-- One input byte of it, entering at the high end. -/
def msbByte (c : Word) (b : Byte) : Word := Nat.repeat msbBit 8 (c ^^^ (b.setWidth 32 <<< 24))

/-- The parameter set of R141: initial value, input and output reflected, final XOR. -/
def crcOfParameters (s : List Byte) : Word :=
  ((s.map BitVec.reverse).foldl msbByte 0xFFFFFFFF).reverse ^^^ 0xFFFFFFFF

/-- "RuSt" followed by "This is where your secret message will be!" (R142). -/
def referenceInput : List Byte :=
  [0x52, 0x75, 0x53, 0x74,
    0x54, 0x68, 0x69, 0x73, 0x20, 0x69, 0x73, 0x20, 0x77, 0x68, 0x65, 0x72, 0x65, 0x20, 0x79, 0x6f, 0x75, 0x72, 0x20,
    0x73, 0x65, 0x63, 0x72, 0x65, 0x74, 0x20, 0x6d, 0x65, 0x73, 0x73, 0x61, 0x67, 0x65, 0x20, 0x77, 0x69, 0x6c, 0x6c,
    0x20, 0x62, 0x65, 0x21]

/-- Two states the host cannot tell apart now: equal but for TAG while no tag is present, the chunk slot's contents while
it holds no chunk, CH_PAYLOAD beyond CH_LEN, PENDING while idle, and OUT at offsets ≥ OUT_LEN (R35, R36, R38, R40). -/
structure SameToHost (s t : State) : Prop where
  cfg : t.cfg = s.cfg
  busy : t.busy = s.busy
  pending : s.busy = true → t.pending = s.pending
  errCode : t.errCode = s.errCode
  errInfo0 : t.errInfo0 = s.errInfo0
  errInfo1 : t.errInfo1 = s.errInfo1
  result : t.result = s.result
  tagIn : t.tagIn = s.tagIn
  srcLen : t.srcLen = s.srcLen
  outLen : t.outLen = s.outLen
  tagPresent : t.tagPresent = s.tagPresent
  tag : s.tagPresent = true → t.tag = s.tag
  chValid : t.chValid = s.chValid
  chTag : s.chValid = true → t.chTag = s.chTag
  chLen : s.chValid = true → t.chLen = s.chLen
  payload : s.chValid = true → t.chPayload.take t.chLen = s.chPayload.take s.chLen
  inBuf : ∀ a, t.inBuf.read a = s.inBuf.read a
  outBuf : ∀ a, a < s.outLen.toNat → t.outBuf.read a = s.outBuf.read a
  host : t.host = s.host
  turns : t.turns = s.turns

/-- The same end of a step, up to states the host cannot tell apart. -/
def sameOutcome : Outcome → Outcome → Prop
  | .next s, .next t       => SameToHost s t
  | .fault f, .fault g     => f = g
  | .refused r, .refused q => r = q
  | _, _                   => False

end Sys2Proof.Stated

open Sys2Proof.Stated

/-! ## Encoding -/

/-- R82: the 18 rows, word by word, and no other word selects a row: its bits 31:8 are 0 and its bits 7:0 an OPCODE of the table. -/
def Obligations.EveryOpcodeRowDecodes : Prop :=
  decode 0x00000000 = .ok .nop ∧ decode 0x00000001 = .ok .tagFromBytes ∧ decode 0x00000002 = .ok .tagFromText ∧
  decode 0x00000003 = .ok .tagBytes ∧ decode 0x00000004 = .ok .tagIsValid ∧ decode 0x00000005 = .ok .tagIsCritical ∧
  decode 0x00000006 = .ok .tagIsPublic ∧ decode 0x00000007 = .ok .tagIsReservedBitValid ∧
  decode 0x00000008 = .ok .tagIsSafeToCopy ∧ decode 0x00000009 = .ok .tagEq ∧ decode 0x00000010 = .ok .crc32Raw ∧
  decode 0x00000020 = .ok .chunkNew ∧ decode 0x00000021 = .ok .chunkParse ∧ decode 0x00000022 = .ok .chunkSerialize ∧
  decode 0x00000023 = .ok .chunkLength ∧ decode 0x00000024 = .ok .chunkType ∧ decode 0x00000025 = .ok .chunkData ∧
  decode 0x00000026 = .ok .chunkCrc ∧
  ∀ (w : Word) (i : Instr), decode w = .ok i → w.extractLsb' 8 24 = 0 ∧
    (w.extractLsb' 0 8).toNat ∈ [0x00, 0x01, 0x02, 0x03, 0x04, 0x05, 0x06, 0x07, 0x08, 0x09, 0x10, 0x20, 0x21, 0x22, 0x23,
      0x24, 0x25, 0x26]

/-- R82, R87: decoding inverts encoding in both directions, so every command has exactly one word. -/
def Obligations.DecodeAndEncodeAgree : Prop :=
  (∀ i, i.wf = true → decode (encode i) = .ok i) ∧ ∀ w i, decode w = .ok i → w = encode i

/-- R83: the two kinds of illegal word; the CMD write accepts them; the engine completes them with ILLEGAL_CMD before any
other check and with no other effect. -/
def Obligations.IllegalWordCompletesWithIllegalCmd : Prop :=
  ∀ w : Word,
    (illegalWord w ↔ ∀ i, decode w ≠ .ok i) ∧
    (illegalWord w → ∀ s : State,
      (s.busy = false →
        hostAccess s (regAccess 0x04 (.write w)) = .ok ({ s with pending := w, busy := true }, none)) ∧
      (s.busy = true → s.pending = w → engineTurn s = .next { failed s .illegalCmd w 0 with busy := false }))

/-! ## The command cycle -/

/-- R85: a CMD write latches the word and sets BUSY, and nothing else changes; while BUSY = 1 it is the fault of R237. -/
def Obligations.CmdWriteIssuesTheCommand : Prop :=
  ∀ (s : State) (w : Word),
    (s.busy = false →
      hostAccess s (regAccess 0x04 (.write w)) = .ok ({ s with pending := w, busy := true }, none)) ∧
    (s.busy = true → hostAccess s (regAccess 0x04 (.write w)) = .error .cmdWhileBusy)

/-- R20, R86, R230: a step is the engine's, the host's or RESET, on the state with that turn taken off the list. (Whose turn it
is, and that RESET is a turn, is the model's schedule, log entries 4 and 5.) -/
def Obligations.StepIsOneAgentsMove : Prop :=
  ∀ s : State,
    (s.turn = .engine → step s = engineTurn { s with turns := s.turns.tail }) ∧
    (s.turn = .host → step s = hostTurn { s with turns := s.turns.tail }) ∧
    (s.turn = .reset → step s = .next ({ s with turns := s.turns.tail } : State).applyReset) ∧
    (s.turns = [] → s.busy = true → s.turn = .engine)

/-- R86, R87: on the engine's turn, with BUSY = 1 and PENDING the word of a command, the step is that command's `exec`,
then BUSY <- 0. (That it is the engine's turn is the model's schedule, log entry 5.) -/
def Obligations.EngineStepRunsTheDecodedCommand : Prop :=
  ∀ (s : State) (i : Instr), s.turn = .engine → s.busy = true → decode s.pending = .ok i →
    step s = match exec i { s with turns := s.turns.tail } with
      | .next t    => .next { t with busy := false }
      | .fault f   => .fault f
      | .refused r => .refused r

/-- R86, R39: whatever word is pending, the engine's step ends with BUSY = 0, or the command reads an unwritten IN byte. -/
def Obligations.EngineStepAlwaysCompletes : Prop :=
  ∀ s : State, s.turn = .engine → s.busy = true →
    (∃ t, step s = .next t ∧ t.busy = false) ∨ step s = .fault .uninitRead

/-- R84, R213: no command is refused, and the only fault a command ends in is UNINIT_READ, for the four that read IN. -/
def Obligations.CommandsNeverRefuse : Prop :=
  ∀ (i : Instr) (s : State),
    (∀ r, exec i s ≠ .refused r) ∧
    (∀ f, exec i s = .fault f → f = .uninitRead ∧ i ∈ [.tagFromText, .crc32Raw, .chunkNew, .chunkParse])

/-- R212: when BUSY = 0 the engine has no step. (A turn given to an idle engine passes: the model's choice, log entry 6.) -/
def Obligations.IdleEngineHasNoStep : Prop :=
  ∀ s : State, s.turn = .engine → s.busy = false → step s = .next { s with turns := s.turns.tail }

/-- R241: from any state with BUSY = 1, within the turns listed and one more, the command in flight has ended or the run
has. (The finite list of turns is the model's form of weak fairness, log entry 5.) -/
def Obligations.PendingCommandEnds : Prop :=
  ∀ s : State, s.busy = true → ∃ k, k ≤ s.turns.length + 1 ∧
    match Sys2Proof.core.run k s with
    | .next t    => t.busy = false
    | .fault _   => True
    | .refused _ => True

/-- R38, R85, R230: while a command is in flight nothing of the block changes, and only the engine's step or RESET ends
it. -/
def Obligations.BlockStandsStillWhileBusy : Prop :=
  ∀ s t : State, step s = .next t → s.busy = true →
    (t.busy = true → t = { s with host := t.host, turns := t.turns }) ∧
    (t.busy = false → s.turn = .engine ∨ s.turn = .reset)

/-! ## The commands -/

/-- R90. A word whose OPCODE bits are NOP's under reserved bits that are not 0 is not NOP: it raises ILLEGAL_CMD. -/
def Obligations.NopClearsTheErrorReport : Prop :=
  decode 0x00000000 = .ok .nop ∧ (∀ s : State, exec .nop s = .next (succeeded s)) ∧
  (∀ w : Word, w.extractLsb' 0 8 = 0 → w.extractLsb' 8 24 ≠ 0 → decode w ≠ .ok .nop ∧
    ∀ s : State, s.busy = true → s.pending = w → engineTurn s = .next { failed s .illegalCmd w 0 with busy := false }) ∧
  exec .nop State.reset = .next State.reset

/-- R102. -/
def Obligations.TagFromBytesStoresTagIn : Prop :=
  decode 0x00000001 = .ok .tagFromBytes ∧
  ∀ s : State, exec .tagFromBytes s = .next (succeeded { s with
    tag := { b0 := s.tagIn.extractLsb' 24 8, b1 := s.tagIn.extractLsb' 16 8, b2 := s.tagIn.extractLsb' 8 8,
             b3 := s.tagIn.extractLsb' 0 8 },
    tagPresent := true })

/-- R103, on written bytes of IN; unwritten ones are `UnwrittenOperandByteFaults`. -/
def Obligations.TagFromTextChecksLengthThenLetters : Prop :=
  decode 0x00000002 = .ok .tagFromText ∧
  ∀ s : State,
    (s.srcLen.toNat ≠ 4 → exec .tagFromText s = .next (failed { s with tagPresent := false } .tagLength s.srcLen 0)) ∧
    ∀ t : Tag, s.srcLen.toNat = 4 → bytesAre s.inBuf 0 (four t) →
      ((letter t.b0 ∧ letter t.b1 ∧ letter t.b2 ∧ letter t.b3) →
        exec .tagFromText s = .next (succeeded { s with tag := t, tagPresent := true })) ∧
      (¬ (letter t.b0 ∧ letter t.b1 ∧ letter t.b2 ∧ letter t.b3) →
        exec .tagFromText s = .next (failed { s with tagPresent := false } .tagInvalidCharacter 0 0))

/-- R104, R64. -/
def Obligations.TagBytesPacksTheTag : Prop :=
  decode 0x00000003 = .ok .tagBytes ∧
  ∀ s : State,
    (s.tagPresent = true → ∃ w : Word, w.toNat = be32 s.tag ∧
      exec .tagBytes s = .next (succeeded { s with result := w })) ∧
    (s.tagPresent = false → exec .tagBytes s = .next (failed s .noTag 0 0))

/-- R105, R100. -/
def Obligations.TagIsValidTestsAllFourBytes : Prop := testsTag 0x00000004 .tagIsValid fun s => validTag s.tag

/-- R101, R106 to R109: each flag reads the case of one byte, under both settings of FLAG_CASE_RULE, which agree on
letters; the validity does not depend on the setting. -/
def Obligations.EachFlagReadsOneByte : Prop :=
  (testsTag 0x00000005 .tagIsCritical fun s => flagIsUpper s.cfg s.tag.b0) ∧
  (testsTag 0x00000006 .tagIsPublic fun s => flagIsUpper s.cfg s.tag.b1) ∧
  (testsTag 0x00000007 .tagIsReservedBitValid fun s => flagIsUpper s.cfg s.tag.b2) ∧
  (testsTag 0x00000008 .tagIsSafeToCopy fun s => flagIsLower s.cfg s.tag.b3) ∧
  (∀ b : Byte, letter b → (upperCase b ↔ b.getLsbD 5 = false) ∧ (lowerCase b ↔ b.getLsbD 5 = true)) ∧
  ∀ (s : State) (r : FlagCaseRule), ∃ t u, exec .tagIsValid s = .next t ∧
    exec .tagIsValid { s with cfg := { s.cfg with flagCase := r } } = .next u ∧ u.result = t.result

/-- R110. -/
def Obligations.TagEqComparesAllBits : Prop := testsTag 0x00000009 .tagEq fun s => be32 s.tag = s.tagIn.toNat

/-- R143. -/
def Obligations.Crc32RawChecksumsTheOperand : Prop :=
  decode 0x00000010 = .ok .crc32Raw ∧
  ∀ s : State,
    (s.cfg.inSize < s.srcLen.toNat → exec .crc32Raw s = .next (failed s .srcRange s.srcLen 0)) ∧
    (∀ bs : List Byte, s.srcLen.toNat ≤ s.cfg.inSize → bs.length = s.srcLen.toNat → bytesAre s.inBuf 0 bs →
      exec .crc32Raw s = .next (succeeded { s with result := crc32 bs })) ∧
    (s.srcLen.toNat ≤ s.cfg.inSize → unwritten s.inBuf 0 s.srcLen.toNat → exec .crc32Raw s = .fault .uninitRead)

/-- R162, on written bytes of IN; unwritten ones are `UnwrittenOperandByteFaults`. (`rest` is CH_PAYLOAD beyond the payload, of
which the rule says nothing: log entry 15.) -/
def Obligations.ChunkNewCopiesTagAndPayload : Prop :=
  decode 0x00000020 = .ok .chunkNew ∧
  ∀ s : State,
    (s.tagPresent = false → exec .chunkNew s = .next (failed { s with chValid := false } .noTag 0 0)) ∧
    (s.tagPresent = true → s.cfg.inSize < s.srcLen.toNat →
      exec .chunkNew s = .next (failed { s with chValid := false } .srcRange s.srcLen 0)) ∧
    ∀ p : List Byte, s.tagPresent = true → s.srcLen.toNat ≤ s.cfg.inSize → p.length = s.srcLen.toNat →
      bytesAre s.inBuf 0 p →
      ∃ rest, exec .chunkNew s = .next (succeeded { s with
        chTag := s.tag, chLen := s.srcLen.toNat, chPayload := p ++ rest, chValid := true })

/-- R163, R145, on written bytes of IN: the checks in order, and the chunk and RESULT of a parse that passes them. (`rest` is
CH_PAYLOAD beyond the payload: log entry 15.) -/
def Obligations.ChunkParseChecksInStepOrder : Prop :=
  decode 0x00000021 = .ok .chunkParse ∧
  ∀ s : State,
    (s.cfg.inSize < s.srcLen.toNat →
      exec .chunkParse s = .next (failed { s with chValid := false } .srcRange s.srcLen 0)) ∧
    (s.srcLen.toNat ≤ s.cfg.inSize → s.srcLen.toNat < 12 →
      exec .chunkParse s = .next (failed { s with chValid := false } .chunkInputTooSmall 0 0)) ∧
    ∀ d t : Bytes4, s.srcLen.toNat ≤ s.cfg.inSize → 12 ≤ s.srcLen.toNat →
      bytesAre s.inBuf 0 (four d) → bytesAre s.inBuf 4 (four t) →
      (¬ validTag t → exec .chunkParse s = .next (failed { s with chValid := false } .chunkInvalidTagType 0 0)) ∧
      (validTag t → s.srcLen.toNat - 12 < be32 d →
        exec .chunkParse s = .next (failed { s with chValid := false } .chunkBounds 0 0)) ∧
      ∀ (p : List Byte) (c : Bytes4), validTag t → be32 d ≤ s.srcLen.toNat - 12 → p.length = be32 d →
        bytesAre s.inBuf 8 p → bytesAre s.inBuf (8 + be32 d) (four c) →
        (be32 c ≠ (crc32 (four t ++ p)).toNat →
          exec .chunkParse s =
            .next (failed { s with chValid := false } .chunkInvalidCrc (BitVec.ofNat 32 (be32 c)) (crc32 (four t ++ p)))) ∧
        (be32 c = (crc32 (four t ++ p)).toNat →
          ∃ rest, exec .chunkParse s = .next (succeeded { s with
            chTag := t, chLen := be32 d, chPayload := p ++ rest, chValid := true,
            result := BitVec.ofNat 32 (12 + be32 d) }))

/-- R164: with N the declared length and 12+N at most SRC_LEN, the outcome of a parse, whichever it is, depends on no byte
at offset 12+N or above and not on how far SRC_LEN goes beyond 12+N; a success says 12+N in RESULT. -/
def Obligations.TrailingDataIsNotRead : Prop :=
  ∀ (s : State) (d : Bytes4) (m : Memory) (L : Word), bytesAre s.inBuf 0 (four d) →
    12 + be32 d ≤ s.srcLen.toNat → s.srcLen.toNat ≤ s.cfg.inSize → 12 + be32 d ≤ L.toNat → L.toNat ≤ s.cfg.inSize →
    (∀ a, a < 12 + be32 d → m.read a = s.inBuf.read a) →
    (∀ t, exec .chunkParse s = .next t →
      exec .chunkParse { s with inBuf := m, srcLen := L } = .next { t with inBuf := m, srcLen := L } ∧
      (t.errCode = .none → t.result = BitVec.ofNat 32 (12 + be32 d))) ∧
    (∀ f, exec .chunkParse s = .fault f → exec .chunkParse { s with inBuf := m, srcLen := L } = .fault f)

/-- R37, R145: the chunk of a successful parse satisfies the source's invariant on its checksum field. -/
def Obligations.ParsedChunkMatchesItsChecksumField : Prop :=
  ∀ s t : State, exec .chunkParse s = .next t → t.errCode = .none →
    t.chValid = true ∧ validTag t.chTag ∧ bytesAre s.inBuf 4 (four t.chTag) ∧
    bytesAre s.inBuf 8 (t.chPayload.take t.chLen) ∧
    ∃ c : Bytes4, bytesAre s.inBuf (8 + t.chLen) (four c) ∧
      be32 c = (crc32 (four t.chTag ++ t.chPayload.take t.chLen)).toNat

/-- R165, R161: OUT gets the wire image, byte for byte; bytes at 12+N and above are as before. The premise is the
invariant every step keeps. -/
def Obligations.ChunkSerializeWritesTheWireImage : Prop :=
  decode 0x00000022 = .ok .chunkSerialize ∧
  ∀ s : State,
    (s.chValid = false → exec .chunkSerialize s = .next (failed s .noChunk 0 0)) ∧
    (s.Inv → s.chValid = true → ∃ (m : Memory) (n c : Bytes4),
      exec .chunkSerialize s = .next (succeeded { s with outBuf := m, outLen := BitVec.ofNat 32 (12 + s.chLen) }) ∧
      be32 n = s.chLen ∧ be32 c = (crc32 (four s.chTag ++ s.chPayload.take s.chLen)).toNat ∧
      bytesAre m 0 (four n ++ four s.chTag ++ s.chPayload.take s.chLen ++ four c) ∧
      ∀ a, 12 + s.chLen ≤ a → m.read a = s.outBuf.read a)

/-- R166: the round-trip law. The premise `s.Inv` is the invariant every step keeps. -/
def Obligations.SerializeThenParseRoundTrips : Prop :=
  ∀ s : State, s.Inv → s.chValid = true → validTag s.chTag → 12 + s.chLen ≤ s.cfg.inSize →
    ∃ t, exec .chunkSerialize s = .next t ∧
      ∀ m : Memory, (∀ a, a < t.outLen.toNat → m.read a = t.outBuf.read a) →
        ∃ u, exec .chunkParse { t with inBuf := m, srcLen := t.outLen } = .next u ∧
          u.errCode = .none ∧ u.chValid = true ∧ u.chTag = s.chTag ∧ u.chLen = s.chLen ∧
          u.chPayload.take u.chLen = s.chPayload.take s.chLen ∧ u.result.toNat = 12 + s.chLen ∧
          ∃ v w, exec .chunkCrc s = .next v ∧ exec .chunkCrc u = .next w ∧ w.result = v.result

/-- R170. -/
def Obligations.ChunkLengthReadsChLen : Prop :=
  decode 0x00000023 = .ok .chunkLength ∧
  ∀ s : State,
    (s.chValid = true → exec .chunkLength s = .next (succeeded { s with result := BitVec.ofNat 32 s.chLen })) ∧
    (s.chValid = false → exec .chunkLength s = .next (failed s .noChunk 0 0))

/-- R171. -/
def Obligations.ChunkTypeCopiesTheTag : Prop :=
  decode 0x00000024 = .ok .chunkType ∧
  ∀ s : State,
    (s.chValid = true → ∃ w : Word, w.toNat = be32 s.chTag ∧
      exec .chunkType s = .next (succeeded { s with tag := s.chTag, tagPresent := true, result := w })) ∧
    (s.chValid = false → exec .chunkType s = .next (failed s .noChunk 0 0))

/-- R172: OUT gets the payload; bytes at CH_LEN and above are as before. The premise is the invariant every step keeps. -/
def Obligations.ChunkDataCopiesThePayload : Prop :=
  decode 0x00000025 = .ok .chunkData ∧
  ∀ s : State,
    (s.chValid = false → exec .chunkData s = .next (failed s .noChunk 0 0)) ∧
    (s.Inv → s.chValid = true → ∃ m : Memory,
      exec .chunkData s = .next (succeeded { s with outBuf := m, outLen := BitVec.ofNat 32 s.chLen }) ∧
      (s.chPayload.take s.chLen).length = s.chLen ∧ bytesAre m 0 (s.chPayload.take s.chLen) ∧
      ∀ a, s.chLen ≤ a → m.read a = s.outBuf.read a)

/-- R173, R144. -/
def Obligations.ChunkCrcRecomputesTheChecksum : Prop :=
  decode 0x00000026 = .ok .chunkCrc ∧
  ∀ s : State,
    (s.chValid = true →
      exec .chunkCrc s = .next (succeeded { s with result := crc32 (four s.chTag ++ s.chPayload.take s.chLen) })) ∧
    (s.chValid = false → exec .chunkCrc s = .next (failed s .noChunk 0 0))

/-- R39, R213: a command that reads an IN byte not written since reset faults, and only where its checks let it read. (That
a 4-byte operand is read whole before it is looked at is log entry 16.) -/
def Obligations.UnwrittenOperandByteFaults : Prop :=
  ∀ s : State,
    (s.srcLen.toNat = 4 → unwritten s.inBuf 0 4 → exec .tagFromText s = .fault .uninitRead) ∧
    (s.tagPresent = true → s.srcLen.toNat ≤ s.cfg.inSize → unwritten s.inBuf 0 s.srcLen.toNat →
      exec .chunkNew s = .fault .uninitRead) ∧
    (s.srcLen.toNat ≤ s.cfg.inSize → 12 ≤ s.srcLen.toNat →
      (unwritten s.inBuf 0 8 → exec .chunkParse s = .fault .uninitRead) ∧
      ∀ d t : Bytes4, bytesAre s.inBuf 0 (four d) → bytesAre s.inBuf 4 (four t) → validTag t →
        be32 d ≤ s.srcLen.toNat - 12 → unwritten s.inBuf 8 (be32 d + 4) → exec .chunkParse s = .fault .uninitRead)

/-! ## Marshalling and the checksum -/

/-- R61. -/
def Obligations.Be32DecodeIsMostSignificantFirst : Prop :=
  (∀ s : Bytes4, (be32Decode s).toNat = be32 s ∧ (be32Decode s).extractLsb' 24 8 = s.b0 ∧
    (be32Decode s).extractLsb' 0 8 = s.b3) ∧
  be32Decode { b0 := 0x00, b1 := 0x00, b2 := 0x00, b3 := 0x2A } = 42

/-- R62. -/
def Obligations.Be32EncodeInvertsDecode : Prop :=
  (∀ v : Word, be32Encode v =
    { b0 := v.extractLsb' 24 8, b1 := v.extractLsb' 16 8, b2 := v.extractLsb' 8 8, b3 := v.extractLsb' 0 8 }) ∧
  (∀ v : Word, be32Decode (be32Encode v) = v) ∧ (∀ s : Bytes4, be32Encode (be32Decode s) = s) ∧
  be32Encode 2882656334 = { b0 := 0xAB, b1 := 0xD1, b2 := 0xD8, b3 := 0x4E }

/-- R142: the source's one checksum. -/
def Obligations.ReferenceChecksum : Prop :=
  referenceInput.length = 4 + 42 ∧ crc32 referenceInput = 2882656334 ∧ (2882656334 : Word) = 0xABD1D84E

/-- R141: the reflected computation of R140 is the function of the parameter set, computed most significant bit first with
the normal polynomial; and its two check values. -/
def Obligations.ChecksumMeetsItsParameterSet : Prop :=
  (∀ s : List Byte, crc32 s = crcOfParameters s) ∧ (0x04C11DB7 : Word).reverse = 0xEDB88320 ∧
  crc32 [0x31, 0x32, 0x33, 0x34, 0x35, 0x36, 0x37, 0x38, 0x39] = 0xCBF43926 ∧ crc32 [] = 0x00000000

/-- R146: inputs of equal length that differ in exactly one byte have different checksums; equal inputs have equal ones. -/
def Obligations.ChangingOneByteChangesTheChecksum : Prop :=
  (∀ s t : List Byte, s = t → crc32 s = crc32 t) ∧
  ∀ (p q : List Byte) (a b : Byte), a ≠ b → crc32 (p ++ a :: q) ≠ crc32 (p ++ b :: q)

/-! ## What commands leave alone -/

/-- R29, R30, R38, R39, R10: no command writes TAG_IN, SRC_LEN, IN, PENDING or the parameters (nor the host's program or the
turns), whether it succeeds or fails. -/
def Obligations.CommandsKeepOperandsAndInput : Prop :=
  ∀ (i : Instr) (s t : State), exec i s = .next t →
    t.tagIn = s.tagIn ∧ t.srcLen = s.srcLen ∧ (∀ a, t.inBuf.read a = s.inBuf.read a) ∧ t.inBuf = s.inBuf ∧
    t.pending = s.pending ∧ t.busy = s.busy ∧ t.cfg = s.cfg ∧ t.host = s.host ∧ t.turns = s.turns

/-- R35: only TAG_FROM_BYTES, TAG_FROM_TEXT and CHUNK_TYPE change the tag slot. -/
def Obligations.OnlyThreeCommandsWriteTheTagSlot : Prop :=
  ∀ (i : Instr) (s t : State), exec i s = .next t → i ∉ [.tagFromBytes, .tagFromText, .chunkType] →
    t.tag = s.tag ∧ t.tagPresent = s.tagPresent

/-- R36: only CHUNK_NEW and CHUNK_PARSE write the chunk slot. -/
def Obligations.OnlyNewAndParseWriteTheChunkSlot : Prop :=
  ∀ (i : Instr) (s t : State), exec i s = .next t → i ∉ [.chunkNew, .chunkParse] →
    t.chValid = s.chValid ∧ t.chTag = s.chTag ∧ t.chLen = s.chLen ∧ t.chPayload = s.chPayload

/-- R40, R31: only CHUNK_SERIALIZE and CHUNK_DATA write OUT and OUT_LEN, and each only the bytes it stores. -/
def Obligations.OnlySerializeAndDataWriteOut : Prop :=
  ∀ (i : Instr) (s t : State), exec i s = .next t →
    (i ∉ [.chunkSerialize, .chunkData] → t.outLen = s.outLen ∧ ∀ a, t.outBuf.read a = s.outBuf.read a) ∧
    (i = .chunkSerialize → ∀ a, 12 + s.chLen ≤ a → t.outBuf.read a = s.outBuf.read a) ∧
    (i = .chunkData → ∀ a, s.chLen ≤ a → t.outBuf.read a = s.outBuf.read a)

/-- R28: the commands with no scalar result, and every command that fails, leave RESULT unchanged. -/
def Obligations.ResultKeptWithoutAScalarResult : Prop :=
  ∀ (i : Instr) (s t : State), exec i s = .next t →
    (i ∈ [.nop, .tagFromBytes, .tagFromText, .chunkNew, .chunkSerialize, .chunkData] ∨ t.errCode ≠ .none) →
    t.result = s.result

/-- R202, R206: the state after an error is the state before the command, but for the error report and the slot
invalidation of TAG_FROM_TEXT, CHUNK_NEW and CHUNK_PARSE; in the engine's step BUSY then falls. -/
def Obligations.ErrorsArePrecise : Prop :=
  (∀ (i : Instr) (s t : State), exec i s = .next t → t.errCode ≠ .none →
    t = failed { s with
      tagPresent := if i = .tagFromText then false else s.tagPresent,
      chValid := if i = .chunkNew ∨ i = .chunkParse then false else s.chValid } t.errCode t.errInfo0 t.errInfo1) ∧
  (∀ s t : State, step s = .next t → s.turn = .engine → s.busy = true → t.busy = false)

/-- R203: after a success the error report is clear, and STATUS.ERR reads 0. -/
def Obligations.SuccessClearsTheErrorReport : Prop :=
  ∀ (i : Instr) (s t : State), exec i s = .next t → t.errCode = .none →
    t.errInfo0 = 0 ∧ t.errInfo1 = 0 ∧
    ∃ v, hostAccess t (regAccess 0x08 .read) = .ok (t, some v) ∧ v.getLsbD 1 = false

/-- R200, R205: which errors each command raises, and what they record. -/
def Obligations.CommandsRaiseTheirListedErrors : Prop :=
  ∀ (i : Instr) (s t : State), exec i s = .next t → t.errCode ≠ .none →
    (t.errCode = .tagLength ∧ i = .tagFromText ∧ t.errInfo0 = s.srcLen ∧ t.errInfo1 = 0) ∨
    (t.errCode = .tagInvalidCharacter ∧ i = .tagFromText ∧ t.errInfo0 = 0 ∧ t.errInfo1 = 0) ∨
    (t.errCode = .chunkInputTooSmall ∧ i = .chunkParse ∧ t.errInfo0 = 0 ∧ t.errInfo1 = 0) ∨
    (t.errCode = .chunkInvalidTagType ∧ i = .chunkParse ∧ t.errInfo0 = 0 ∧ t.errInfo1 = 0) ∨
    (t.errCode = .chunkBounds ∧ i = .chunkParse ∧ t.errInfo0 = 0 ∧ t.errInfo1 = 0) ∨
    (t.errCode = .chunkInvalidCrc ∧ i = .chunkParse ∧ t.errInfo0 ≠ t.errInfo1) ∨
    (t.errCode = .noTag ∧
      i ∈ [.tagBytes, .tagIsValid, .tagIsCritical, .tagIsPublic, .tagIsReservedBitValid, .tagIsSafeToCopy, .tagEq,
        .chunkNew] ∧ t.errInfo0 = 0 ∧ t.errInfo1 = 0) ∨
    (t.errCode = .noChunk ∧ i ∈ [.chunkSerialize, .chunkLength, .chunkType, .chunkData, .chunkCrc] ∧
      t.errInfo0 = 0 ∧ t.errInfo1 = 0) ∨
    (t.errCode = .srcRange ∧ i ∈ [.crc32Raw, .chunkNew, .chunkParse] ∧ t.errInfo0 = s.srcLen ∧ t.errInfo1 = 0)

/-! ## The host's accesses -/

/-- R66: the bus errors, exactly. (While BUSY = 1, and where the access is a stale read of OUT too, that the bus error is the
fault reported is the model's choice, log entry 10.) -/
def Obligations.BusErrorsAreExactlyTheListed : Prop :=
  ∀ (s : State) (a : Access), hostAccess s a = .error .busError ↔ isBusError s.cfg a

/-- R236, R237: while BUSY = 1 only STATUS and ID can be read; a CMD write is CMD_WHILE_BUSY and any other access HAZARD.
(An access that is also a bus error reports that, and a read of IN or OUT that would be UNINIT_READ or STALE_READ while idle
reports HAZARD: the model's choice, log entry 10.) -/
def Obligations.OnlyStatusAndIdAreReadableWhileBusy : Prop :=
  ∀ (s : State) (a : Access), s.busy = true → ¬ isBusError s.cfg a →
    ((a.space = .reg ∧ a.dir = .read ∧ (a.offset = 0x08 ∨ a.offset = 0x00)) →
      ∃ v, hostAccess s a = .ok (s, some v)) ∧
    ((a.space = .reg ∧ a.dir ≠ .read ∧ a.offset = 0x04) → hostAccess s a = .error .cmdWhileBusy) ∧
    ((¬ (a.space = .reg ∧ a.dir = .read ∧ (a.offset = 0x08 ∨ a.offset = 0x00)) ∧
      ¬ (a.space = .reg ∧ a.dir ≠ .read ∧ a.offset = 0x04)) → hostAccess s a = .error .hazard)

/-- R69: reads change nothing and repeat; a write other than to CMD changes only the location written. -/
def Obligations.OnlyCmdWritesHaveASideEffect : Prop :=
  ∀ (s t : State) (a : Access) (v : Option Word), hostAccess s a = .ok (t, v) →
    (a.dir = .read → t = s ∧ hostAccess t a = .ok (t, v) ∧ ∃ w, v = some w) ∧
    (a.dir ≠ .read → ¬ (a.space = .reg ∧ a.offset = 0x04) →
      t = { s with tagIn := t.tagIn, srcLen := t.srcLen, inBuf := t.inBuf } ∧
      (t.tagIn ≠ s.tagIn → a.space = .reg ∧ a.offset = 0x1C) ∧
      (t.srcLen ≠ s.srcLen → a.space = .reg ∧ a.offset = 0x20) ∧
      ∀ x, t.inBuf.read x ≠ s.inBuf.read x → a.space = .inBuf ∧ a.offset = x)

/-- R24: the fields of STATUS. -/
def Obligations.StatusShowsItsFields : Prop :=
  (∀ s : State, ∃ v : Word, hostAccess s (regAccess 0x08 .read) = .ok (s, some v) ∧
    v.getLsbD 0 = s.busy ∧ v.getLsbD 1 = decide (s.errCode ≠ .none) ∧ v.getLsbD 2 = s.chValid ∧
    v.getLsbD 3 = s.tagPresent ∧ ∀ k, 4 ≤ k → v.getLsbD k = false) ∧
  (∀ (s : State) (w : Word), s.busy = false → hostAccess s (regAccess 0x08 (.write w)) = .ok (s, none)) ∧
  hostAccess State.reset (regAccess 0x08 .read) = .ok (State.reset, some 0x00000000)

/-- R22, R26 to R32: what the host reads at each register's offset; TAG_IN and SRC_LEN take every 32-bit value. -/
def Obligations.RegistersLieAtTheirOffsets : Prop :=
  ∀ s : State,
    hostAccess s (regAccess 0x00 .read) = .ok (s, some 0x504E4743) ∧
    (s.busy = false →
      hostAccess s (regAccess 0x10 .read) = .ok (s, some s.errInfo0) ∧
      hostAccess s (regAccess 0x14 .read) = .ok (s, some s.errInfo1) ∧
      hostAccess s (regAccess 0x18 .read) = .ok (s, some s.result) ∧
      hostAccess s (regAccess 0x1C .read) = .ok (s, some s.tagIn) ∧
      hostAccess s (regAccess 0x20 .read) = .ok (s, some s.srcLen) ∧
      hostAccess s (regAccess 0x24 .read) = .ok (s, some s.outLen) ∧
      hostAccess s (regAccess 0x28 .read) = .ok (s, some (BitVec.ofNat 32 s.cfg.inSize)) ∧
      hostAccess s (regAccess 0x2C .read) = .ok (s, some (BitVec.ofNat 32 s.cfg.payloadSize)) ∧
      hostAccess s (regAccess 0x30 .read) = .ok (s, some (BitVec.ofNat 32 s.cfg.outSize)) ∧
      ∀ w : Word, hostAccess s (regAccess 0x1C (.write w)) = .ok ({ s with tagIn := w }, none) ∧
        hostAccess s (regAccess 0x20 (.write w)) = .ok ({ s with srcLen := w }, none))

/-- R25, R200: the number ERR_CODE reads for each error kind. -/
def Obligations.ErrCodeReadsTheListedCode : Prop :=
  ∀ s : State, s.busy = false → ∃ v : Word, hostAccess s (regAccess 0x0C .read) = .ok (s, some v) ∧
    (s.errCode = .none → v = 0x00) ∧ (s.errCode = .tagLength → v = 0x01) ∧
    (s.errCode = .tagInvalidCharacter → v = 0x02) ∧ (s.errCode = .chunkInputTooSmall → v = 0x03) ∧
    (s.errCode = .chunkInvalidTagType → v = 0x04) ∧ (s.errCode = .chunkBounds → v = 0x05) ∧
    (s.errCode = .chunkInvalidCrc → v = 0x06) ∧ (s.errCode = .payloadNotUtf8 → v = 0x07) ∧
    (s.errCode = .illegalCmd → v = 0x10) ∧ (s.errCode = .noTag → v = 0x11) ∧ (s.errCode = .noChunk → v = 0x12) ∧
    (s.errCode = .srcRange → v = 0x13)

/-- R33, R34: writes to read-only registers and reserved offsets are ignored; CMD and reserved offsets read 0; there is no
REG space at 0x40 and above. (That an access there while BUSY = 1 is a bus error and no hazard is the model's choice, log
entry 10.) -/
def Obligations.ReadOnlyAndReservedOffsetsIgnoreWrites : Prop :=
  ∀ (s : State) (w : Word),
    (∀ o, o ∈ [0x00, 0x08, 0x0C, 0x10, 0x14, 0x18, 0x24, 0x28, 0x2C, 0x30, 0x34, 0x38, 0x3C] → s.busy = false →
      hostAccess s (regAccess o (.write w)) = .ok (s, none)) ∧
    (∀ o, o ∈ [0x04, 0x34, 0x38, 0x3C] → s.busy = false → hostAccess s (regAccess o .read) = .ok (s, some 0)) ∧
    (∀ o d, 0x40 ≤ o → hostAccess s (regAccess o d) = .error .busError)

/-- R39, R67: a byte of IN reads as last written, and unwritten it faults. (A byte read gives its value in a 32-bit word, and
a byte write takes the low 8 bits of its data: log entry 12.) -/
def Obligations.InBytesReadAsWritten : Prop :=
  ∀ (s : State) (o : Nat), s.busy = false → o < s.cfg.inSize →
    (∀ w : Word, ∃ t, hostAccess s (inAccess o (.write w)) = .ok (t, none) ∧ t = { s with inBuf := t.inBuf } ∧
      t.inBuf.read o = some (w.setWidth 8) ∧ ∀ a, a ≠ o → t.inBuf.read a = s.inBuf.read a) ∧
    (∀ b, s.inBuf.read o = some b → hostAccess s (inAccess o .read) = .ok (s, some (b.setWidth 32))) ∧
    (s.inBuf.read o = none → hostAccess s (inAccess o .read) = .error .uninitRead)

/-- R40: below OUT_LEN a byte of OUT can be read, at and above it the read is stale. The premise is the invariant every
step keeps. (The byte read gives its value in a 32-bit word: log entry 12.) -/
def Obligations.OutReadsOnlyBelowOutLen : Prop :=
  ∀ (s : State) (o : Nat), s.Inv → s.busy = false →
    (o < s.outLen.toNat → ∃ b, s.outBuf.read o = some b ∧ hostAccess s (outRead o) = .ok (s, some (b.setWidth 32))) ∧
    (s.outLen.toNat ≤ o → o < s.cfg.outSize → hostAccess s (outRead o) = .error .staleRead)

/-- R67: on its own turn the host changes nothing but TAG_IN, SRC_LEN, IN and the issue of a command (and its own
position). -/
def Obligations.HostCannotWriteResultsOrSlots : Prop :=
  ∀ s t : State, step s = .next t → s.turn = .host →
    t = { s with busy := t.busy, pending := t.pending, tagIn := t.tagIn, srcLen := t.srcLen, inBuf := t.inBuf,
                 host := t.host, turns := t.turns }

/-- R88: on the host's turn, a line that is a bus transaction performs exactly that access, remembers the value read, and
goes to the next line; `BIT1` goes to its label if the bit of the last value read is 1, else to the next line, and for every
bit number and label it goes to some line and does nothing else (where the program does not define the label, and for a bit at
or above 32, which line is a free value: log entries 8 and 18); a label is passed over (which takes the host a turn: log
entry 9); a platform address at which the block has no byte is refused (log entry 13). -/
def Obligations.EachHostLineIsItsTransaction : Prop :=
  ∀ (s : State) (line : HostLine), s.turn = .host → s.host.prog[s.host.pc]? = some line →
    (∀ a, transactionOf s.cfg line = some a →
      (∀ f, hostAccess s a = .error f → step s = .fault f) ∧
      (∀ t v, hostAccess s a = .ok (t, v) →
        step s = .next { t with
          host := { s.host with pc := s.host.pc + 1, lastRead := v.getD s.host.lastRead }, turns := s.turns.tail })) ∧
    (∀ bit l, line = .bit1 bit l →
      (bit < 32 → s.host.lastRead.getLsbD bit = false →
        step s = .next { s with host := { s.host with pc := s.host.pc + 1 }, turns := s.turns.tail }) ∧
      (∀ k, bit < 32 → s.host.lastRead.getLsbD bit = true → findLabel s.host.prog l = some k →
        step s = .next { s with host := { s.host with pc := k }, turns := s.turns.tail }) ∧
      ∃ k, step s = .next { s with host := { s.host with pc := k }, turns := s.turns.tail }) ∧
    (∀ l, line = .label l →
      step s = .next { s with host := { s.host with pc := s.host.pc + 1 }, turns := s.turns.tail }) ∧
    (∀ addr width d, line = .bus addr width d → locate s.cfg addr = none → step s = .refused .hostOutsideBlock)

/-- R70: with the three spaces placed so that they do not overlap, each byte of a space is found at its base plus its
offset. -/
def Obligations.SpacesLieAtTheirBases : Prop :=
  ∀ (c : Config) (sp : Space) (o : Nat), c.wf = true →
    o < (match sp with | .reg => 0x40 | .inBuf => c.inSize | .outBuf => c.outSize) →
    locate c ((match sp with | .reg => c.regBase | .inBuf => c.inBase | .outBuf => c.outBase) + o) = some (sp, o)

/-! ## Reset, invariants and what cannot be observed -/

/-- R231: what RESET leaves, in any state, busy or not. -/
def Obligations.ResetClearsTheBlock : Prop :=
  ∀ s t : State, t = s.applyReset →
    t.busy = false ∧ t.tagPresent = false ∧ t.chValid = false ∧ t.errCode = .none ∧ t.errInfo0 = 0 ∧ t.errInfo1 = 0 ∧
    t.result = 0 ∧ t.tagIn = 0 ∧ t.srcLen = 0 ∧ t.outLen = 0 ∧ t.cfg = s.cfg ∧
    (∀ a, t.inBuf.read a = none) ∧
    hostAccess t (regAccess 0x00 .read) = .ok (t, some 0x504E4743) ∧
    hostAccess t (regAccess 0x08 .read) = .ok (t, some 0x00000000) ∧
    hostAccess t (regAccess 0x28 .read) = .ok (t, some (BitVec.ofNat 32 s.cfg.inSize)) ∧
    hostAccess t (regAccess 0x2C .read) = .ok (t, some (BitVec.ofNat 32 s.cfg.payloadSize)) ∧
    hostAccess t (regAccess 0x30 .read) = .ok (t, some (BitVec.ofNat 32 s.cfg.outSize)) ∧
    (∀ o, o < s.cfg.outSize → hostAccess t (outRead o) = .error .staleRead) ∧
    (∀ o, o < s.cfg.inSize → hostAccess t (inAccess o .read) = .error .uninitRead)

/-- The invariant holds after reset (R231, R42). -/
def Obligations.InvariantHoldsAtReset : Prop := State.reset.Inv

/-- Every step, of the engine, the host or RESET, keeps the invariant: canonical buffers inside their sizes, OUT filled up to
OUT_LEN, the chunk slot within PAYLOAD_SIZE, only errors that are raised, info registers 0 where no value is carried (R31,
R36, R39, R40, R201, R205). -/
def Obligations.StepKeepsTheInvariant : Prop := ∀ s t : State, s.Inv → step s = .next t → t.Inv

/-- R10, R32: no step changes the parameters. None changes the host's program either, RESET included: the host's program is
the model's (log entry 7), and RESET leaves the host alone (log entry 4). -/
def Obligations.ParametersNeverChange : Prop :=
  ∀ s t : State, step s = .next t → t.cfg = s.cfg ∧ t.host.prog = s.host.prog

/-- R35, R36, R38, R40: what the spec calls not observable is not: two states equal but for it step alike, to states equal
but for it, and end in the same fault or refusal. So no value the model chose for it (log entries 2, 14, 15) can be seen. -/
def Obligations.UnobservableStateNeverShows : Prop :=
  ∀ s t : State, s.Inv → t.Inv → SameToHost s t → sameOutcome (step s) (step t)
end

