-- ==== Sys2Proof/Laws/Memory.lean ====
section
/-! SUPPORT. The laws of a buffer: a read after a write, the canonical form, byte strings. -/

namespace Sys2Proof.Machine

@[simp] theorem Memory.read_nil (a : Nat) : Memory.read [] a = none := rfl

theorem Memory.read_cons (k : Nat) (b : Byte) (m : Memory) (a : Nat) :
    Memory.read ((k, b) :: m) a = if k = a then some b else Memory.read m a := rfl

/-- Every cell lies at or above its memory's lower bound, so a smaller address has no value. -/
theorem Memory.read_below {m : Memory} {a : Nat} (h : ∀ x ∈ m, a < x.1) : m.read a = none := by
  induction m with
  | nil => rfl
  | cons x m ih =>
    obtain ⟨k, b⟩ := x
    have hk : a < k := h (k, b) (by simp)
    rw [Memory.read_cons, if_neg (by omega)]
    exact ih fun y hy => h y (by simp [hy])

/-- A byte that reads as something stands in a cell of its address. -/
theorem Memory.mem_of_read {m : Memory} {a : Nat} {b : Byte} (h : m.read a = some b) : (a, b) ∈ m := by
  induction m with
  | nil => simp at h
  | cons x m ih =>
    obtain ⟨k, c⟩ := x
    rw [Memory.read_cons] at h
    split at h
    · simp_all
    · exact List.mem_cons_of_mem _ (ih h)

@[simp] theorem Memory.read_write_same (m : Memory) (a : Nat) (b : Byte) : (m.write a b).read a = some b := by
  induction m with
  | nil => simp [Memory.write, Memory.read_cons]
  | cons x m ih =>
    obtain ⟨k, c⟩ := x
    unfold Memory.write
    split
    · simp [Memory.read_cons]
    · split
      · simp [Memory.read_cons]
      · rw [Memory.read_cons, if_neg (by omega), ih]

theorem Memory.read_write_other {m : Memory} {a a' : Nat} {b : Byte} (h : a' ≠ a) :
    (m.write a b).read a' = m.read a' := by
  induction m with
  | nil => simp [Memory.write, Memory.read_cons, h.symm]
  | cons x m ih =>
    obtain ⟨k, c⟩ := x
    unfold Memory.write
    split
    · rw [Memory.read_cons, if_neg h.symm]
    · split
      · subst_vars; simp [Memory.read_cons, h.symm]
      · simp only [Memory.read_cons, ih]

/-- Where a memory holds cells after a write: the address written and the old ones. -/
theorem Memory.mem_write_bound {m : Memory} {a : Nat} {b : Byte} {x : Host.Cell} (h : x ∈ m.write a b) :
    x.1 = a ∨ ∃ y ∈ m, y.1 = x.1 := by
  induction m with
  | nil => simp_all [Memory.write]
  | cons y m ih =>
    obtain ⟨k, c⟩ := y
    unfold Memory.write at h
    split at h
    · rcases List.mem_cons.1 h with rfl | h
      · exact .inl rfl
      · exact .inr ⟨x, h, rfl⟩
    · split at h
      · rcases List.mem_cons.1 h with rfl | h
        · exact .inl rfl
        · exact .inr ⟨x, List.mem_cons_of_mem _ h, rfl⟩
      · rcases List.mem_cons.1 h with rfl | h
        · exact .inr ⟨(k, c), by simp, rfl⟩
        · rcases ih h with h | ⟨y, hy, e⟩
          · exact .inl h
          · exact .inr ⟨y, List.mem_cons_of_mem _ hy, e⟩

/-- A write keeps the canonical form. -/
theorem Memory.write_wf {m : Memory} (h : m.wf) (a : Nat) (b : Byte) : (m.write a b).wf := by
  induction m with
  | nil => simp [Memory.write, Memory.wf]
  | cons x m ih =>
    obtain ⟨k, c⟩ := x
    obtain ⟨hk, hm⟩ := List.pairwise_cons.1 h
    unfold Memory.write
    split
    · rename_i hlt
      refine List.pairwise_cons.2 ⟨fun y hy => ?_, h⟩
      rcases List.mem_cons.1 hy with rfl | hy
      · exact hlt
      · exact lt_trans hlt (hk y hy)
    · split
      · subst_vars; exact List.pairwise_cons.2 ⟨hk, hm⟩
      · refine List.pairwise_cons.2 ⟨fun y hy => ?_, ih hm⟩
        rcases Memory.mem_write_bound hy with e | ⟨z, hz, e⟩
        · simp only; omega
        · rw [← e]; exact hk z hz

/-- A write inside a bound keeps every cell inside it. -/
theorem Memory.write_bound {m : Memory} {n a : Nat} {b : Byte} (h : ∀ x ∈ m, x.1 < n) (ha : a < n) :
    ∀ x ∈ m.write a b, x.1 < n := by
  intro x hx
  rcases Memory.mem_write_bound hx with e | ⟨y, hy, e⟩
  · omega
  · rw [← e]; exact h y hy

theorem Memory.writeBytes_wf {m : Memory} (h : m.wf) (a : Nat) (bs : List Byte) : (m.writeBytes a bs).wf := by
  induction bs generalizing m a with
  | nil => exact h
  | cons b bs ih => exact ih (Memory.write_wf h a b) (a + 1)

theorem Memory.writeBytes_bound {m : Memory} {n a : Nat} {bs : List Byte} (h : ∀ x ∈ m, x.1 < n)
    (ha : a + bs.length ≤ n) : ∀ x ∈ m.writeBytes a bs, x.1 < n := by
  induction bs generalizing m a with
  | nil => exact h
  | cons b bs ih =>
    simp only [List.length_cons] at ha
    exact ih (Memory.write_bound h (by omega)) (by omega)

/-- A byte outside the bytes stored reads as before. -/
theorem Memory.read_writeBytes_other {m : Memory} {a x : Nat} {bs : List Byte} (h : x < a ∨ a + bs.length ≤ x) :
    (m.writeBytes a bs).read x = m.read x := by
  induction bs generalizing m a with
  | nil => rfl
  | cons b bs ih =>
    simp only [List.length_cons] at h
    unfold Memory.writeBytes
    rw [ih (by omega), Memory.read_write_other (by omega)]

/-- A byte inside the bytes stored reads as what was stored there. -/
theorem Memory.read_writeBytes {m : Memory} {a k : Nat} {bs : List Byte} (h : k < bs.length) :
    (m.writeBytes a bs).read (a + k) = bs[k]? := by
  induction bs generalizing m a k with
  | nil => simp at h
  | cons b bs ih =>
    unfold Memory.writeBytes
    cases k with
    | zero => rw [Memory.read_writeBytes_other (by omega)]; simp
    | succ k =>
      have := ih (m := m.write a b) (a := a + 1) (k := k) (by simpa using h)
      rw [show a + (k + 1) = a + 1 + k by omega, this]; simp

/-- What `MemRead` answers: a byte string of the length asked for, byte by byte as the memory reads. -/
theorem Memory.readBytes_eq_some {m : Memory} {a n : Nat} {bs : List Byte} :
    m.readBytes a n = some bs ↔ bs.length = n ∧ ∀ k, k < n → m.read (a + k) = bs[k]? := by
  induction n generalizing a bs with
  | zero =>
    simp only [Memory.readBytes, Option.some.injEq]
    exact ⟨fun h => by subst h; simp, fun h => (List.length_eq_zero_iff.1 h.1).symm⟩
  | succ n ih =>
    constructor
    · intro h
      unfold Memory.readBytes at h
      split at h
      · rename_i b cs hb hcs
        obtain ⟨hl, hr⟩ := ih.1 hcs
        obtain rfl : b :: cs = bs := by simpa using h
        refine ⟨by simp [hl], fun k hk => ?_⟩
        cases k with
        | zero => simpa using hb
        | succ k => rw [show a + (k + 1) = a + 1 + k by omega, hr k (by omega)]; simp
      · simp at h
    · rintro ⟨hl, hr⟩
      cases bs with
      | nil => simp at hl
      | cons b cs =>
        have h0 : m.read a = some b := by simpa using hr 0 (by omega)
        have hs : m.readBytes (a + 1) n = some cs := ih.2 ⟨by simpa using hl, fun k hk => by
          have := hr (k + 1) (by omega)
          rw [show a + 1 + k = a + (k + 1) by omega, this]; simp⟩
        simp [Memory.readBytes, h0, hs]

/-- Where a byte has no value, `MemRead` has none. -/
theorem Memory.readBytes_eq_none {m : Memory} {a n : Nat} :
    m.readBytes a n = none ↔ ∃ k, k < n ∧ m.read (a + k) = none := by
  induction n generalizing a with
  | zero => simp [Memory.readBytes]
  | succ n ih =>
    unfold Memory.readBytes
    constructor
    · intro h
      split at h
      · simp at h
      · rename_i hno
        rcases hb : m.read a with _ | b
        · exact ⟨0, by omega, by simpa using hb⟩
        · have : m.readBytes (a + 1) n = none := by
            rcases hc : m.readBytes (a + 1) n with _ | cs
            · rfl
            · exact absurd hc (hno b cs hb)
          obtain ⟨k, hk, hr⟩ := ih.1 this
          exact ⟨k + 1, by omega, by rw [show a + (k + 1) = a + 1 + k by omega]; exact hr⟩
    · rintro ⟨k, hk, hr⟩
      split
      · rename_i b cs hb hcs
        cases k with
        | zero => simp_all
        | succ k =>
          have := ih.2 ⟨k, by omega, by rw [show a + 1 + k = a + (k + 1) by omega]; exact hr⟩
          simp_all
      · rfl

theorem Memory.readBytes_length {m : Memory} {a n : Nat} {bs : List Byte} (h : m.readBytes a n = some bs) :
    bs.length = n := (Memory.readBytes_eq_some.1 h).1

/-- Reading back the bytes just stored. -/
theorem Memory.readBytes_writeBytes (m : Memory) (a : Nat) (bs : List Byte) :
    (m.writeBytes a bs).readBytes a bs.length = some bs :=
  Memory.readBytes_eq_some.2 ⟨rfl, fun _ hk => Memory.read_writeBytes hk⟩

/-- What a read of four bytes answers. -/
theorem Memory.read4_eq_some {m : Memory} {a : Nat} {t : Bytes4} :
    m.read4 a = some t ↔
      m.read a = some t.b0 ∧ m.read (a + 1) = some t.b1 ∧ m.read (a + 2) = some t.b2 ∧ m.read (a + 3) = some t.b3 := by
  unfold Memory.read4
  constructor
  · intro h
    split at h
    · obtain rfl := Option.some.inj h; simp_all
    · simp at h
  · rintro ⟨h0, h1, h2, h3⟩; simp [h0, h1, h2, h3]

/-- Where one of the four bytes has no value, a read of four has none. -/
theorem Memory.read4_eq_none {m : Memory} {a : Nat} : m.read4 a = none ↔ ∃ k, k < 4 ∧ m.read (a + k) = none := by
  unfold Memory.read4
  constructor
  · intro h
    split at h
    · simp at h
    · rename_i hno
      by_contra hc
      push Not at hc
      have some_at : ∀ k, k < 4 → ∃ b, m.read (a + k) = some b := fun k hk => Option.ne_none_iff_exists'.1 (hc k hk)
      obtain ⟨b0, h0⟩ := some_at 0 (by omega)
      obtain ⟨b1, h1⟩ := some_at 1 (by omega)
      obtain ⟨b2, h2⟩ := some_at 2 (by omega)
      obtain ⟨b3, h3⟩ := some_at 3 (by omega)
      exact hno b0 b1 b2 b3 (by simpa using h0) h1 h2 h3
  · rintro ⟨k, hk, hr⟩
    split
    · have : k = 0 ∨ k = 1 ∨ k = 2 ∨ k = 3 := by omega
      rcases this with rfl | rfl | rfl | rfl <;> simp_all
    · rfl

end Sys2Proof.Machine
end

