-- ==== Sys2Proof/Laws/State.lean ====
section
/-! SUPPORT. One lemma per field and update of State, so that no later proof unfolds an update. -/

namespace Sys2Proof.Machine

variable (s : State)

section WithErrFields
variable (e : ErrCode) (i0 i1 : Word)

@[simp] theorem State.withErr_cfg : (s.withErr e i0 i1).cfg = s.cfg := rfl
@[simp] theorem State.withErr_busy : (s.withErr e i0 i1).busy = s.busy := rfl
@[simp] theorem State.withErr_pending : (s.withErr e i0 i1).pending = s.pending := rfl
@[simp] theorem State.withErr_errCode : (s.withErr e i0 i1).errCode = e := rfl
@[simp] theorem State.withErr_errInfo0 : (s.withErr e i0 i1).errInfo0 = i0 := rfl
@[simp] theorem State.withErr_errInfo1 : (s.withErr e i0 i1).errInfo1 = i1 := rfl
@[simp] theorem State.withErr_result : (s.withErr e i0 i1).result = s.result := rfl
@[simp] theorem State.withErr_tagIn : (s.withErr e i0 i1).tagIn = s.tagIn := rfl
@[simp] theorem State.withErr_srcLen : (s.withErr e i0 i1).srcLen = s.srcLen := rfl
@[simp] theorem State.withErr_outLen : (s.withErr e i0 i1).outLen = s.outLen := rfl
@[simp] theorem State.withErr_tagPresent : (s.withErr e i0 i1).tagPresent = s.tagPresent := rfl
@[simp] theorem State.withErr_tag : (s.withErr e i0 i1).tag = s.tag := rfl
@[simp] theorem State.withErr_chValid : (s.withErr e i0 i1).chValid = s.chValid := rfl
@[simp] theorem State.withErr_chTag : (s.withErr e i0 i1).chTag = s.chTag := rfl
@[simp] theorem State.withErr_chLen : (s.withErr e i0 i1).chLen = s.chLen := rfl
@[simp] theorem State.withErr_chPayload : (s.withErr e i0 i1).chPayload = s.chPayload := rfl
@[simp] theorem State.withErr_inBuf : (s.withErr e i0 i1).inBuf = s.inBuf := rfl
@[simp] theorem State.withErr_outBuf : (s.withErr e i0 i1).outBuf = s.outBuf := rfl
@[simp] theorem State.withErr_host : (s.withErr e i0 i1).host = s.host := rfl
@[simp] theorem State.withErr_turns : (s.withErr e i0 i1).turns = s.turns := rfl

end WithErrFields

section WithResultFields
variable (w : Word)

@[simp] theorem State.withResult_cfg : (s.withResult w).cfg = s.cfg := rfl
@[simp] theorem State.withResult_busy : (s.withResult w).busy = s.busy := rfl
@[simp] theorem State.withResult_pending : (s.withResult w).pending = s.pending := rfl
@[simp] theorem State.withResult_errCode : (s.withResult w).errCode = s.errCode := rfl
@[simp] theorem State.withResult_errInfo0 : (s.withResult w).errInfo0 = s.errInfo0 := rfl
@[simp] theorem State.withResult_errInfo1 : (s.withResult w).errInfo1 = s.errInfo1 := rfl
@[simp] theorem State.withResult_result : (s.withResult w).result = w := rfl
@[simp] theorem State.withResult_tagIn : (s.withResult w).tagIn = s.tagIn := rfl
@[simp] theorem State.withResult_srcLen : (s.withResult w).srcLen = s.srcLen := rfl
@[simp] theorem State.withResult_outLen : (s.withResult w).outLen = s.outLen := rfl
@[simp] theorem State.withResult_tagPresent : (s.withResult w).tagPresent = s.tagPresent := rfl
@[simp] theorem State.withResult_tag : (s.withResult w).tag = s.tag := rfl
@[simp] theorem State.withResult_chValid : (s.withResult w).chValid = s.chValid := rfl
@[simp] theorem State.withResult_chTag : (s.withResult w).chTag = s.chTag := rfl
@[simp] theorem State.withResult_chLen : (s.withResult w).chLen = s.chLen := rfl
@[simp] theorem State.withResult_chPayload : (s.withResult w).chPayload = s.chPayload := rfl
@[simp] theorem State.withResult_inBuf : (s.withResult w).inBuf = s.inBuf := rfl
@[simp] theorem State.withResult_outBuf : (s.withResult w).outBuf = s.outBuf := rfl
@[simp] theorem State.withResult_host : (s.withResult w).host = s.host := rfl
@[simp] theorem State.withResult_turns : (s.withResult w).turns = s.turns := rfl

end WithResultFields

section WithTagFields
variable (t : Tag)

@[simp] theorem State.withTag_cfg : (s.withTag t).cfg = s.cfg := rfl
@[simp] theorem State.withTag_busy : (s.withTag t).busy = s.busy := rfl
@[simp] theorem State.withTag_pending : (s.withTag t).pending = s.pending := rfl
@[simp] theorem State.withTag_errCode : (s.withTag t).errCode = s.errCode := rfl
@[simp] theorem State.withTag_errInfo0 : (s.withTag t).errInfo0 = s.errInfo0 := rfl
@[simp] theorem State.withTag_errInfo1 : (s.withTag t).errInfo1 = s.errInfo1 := rfl
@[simp] theorem State.withTag_result : (s.withTag t).result = s.result := rfl
@[simp] theorem State.withTag_tagIn : (s.withTag t).tagIn = s.tagIn := rfl
@[simp] theorem State.withTag_srcLen : (s.withTag t).srcLen = s.srcLen := rfl
@[simp] theorem State.withTag_outLen : (s.withTag t).outLen = s.outLen := rfl
@[simp] theorem State.withTag_tagPresent : (s.withTag t).tagPresent = true := rfl
@[simp] theorem State.withTag_tag : (s.withTag t).tag = t := rfl
@[simp] theorem State.withTag_chValid : (s.withTag t).chValid = s.chValid := rfl
@[simp] theorem State.withTag_chTag : (s.withTag t).chTag = s.chTag := rfl
@[simp] theorem State.withTag_chLen : (s.withTag t).chLen = s.chLen := rfl
@[simp] theorem State.withTag_chPayload : (s.withTag t).chPayload = s.chPayload := rfl
@[simp] theorem State.withTag_inBuf : (s.withTag t).inBuf = s.inBuf := rfl
@[simp] theorem State.withTag_outBuf : (s.withTag t).outBuf = s.outBuf := rfl
@[simp] theorem State.withTag_host : (s.withTag t).host = s.host := rfl
@[simp] theorem State.withTag_turns : (s.withTag t).turns = s.turns := rfl

end WithTagFields

section DropTagFields

@[simp] theorem State.dropTag_cfg : s.dropTag.cfg = s.cfg := rfl
@[simp] theorem State.dropTag_busy : s.dropTag.busy = s.busy := rfl
@[simp] theorem State.dropTag_pending : s.dropTag.pending = s.pending := rfl
@[simp] theorem State.dropTag_errCode : s.dropTag.errCode = s.errCode := rfl
@[simp] theorem State.dropTag_errInfo0 : s.dropTag.errInfo0 = s.errInfo0 := rfl
@[simp] theorem State.dropTag_errInfo1 : s.dropTag.errInfo1 = s.errInfo1 := rfl
@[simp] theorem State.dropTag_result : s.dropTag.result = s.result := rfl
@[simp] theorem State.dropTag_tagIn : s.dropTag.tagIn = s.tagIn := rfl
@[simp] theorem State.dropTag_srcLen : s.dropTag.srcLen = s.srcLen := rfl
@[simp] theorem State.dropTag_outLen : s.dropTag.outLen = s.outLen := rfl
@[simp] theorem State.dropTag_tagPresent : s.dropTag.tagPresent = false := rfl
@[simp] theorem State.dropTag_tag : s.dropTag.tag = s.tag := rfl
@[simp] theorem State.dropTag_chValid : s.dropTag.chValid = s.chValid := rfl
@[simp] theorem State.dropTag_chTag : s.dropTag.chTag = s.chTag := rfl
@[simp] theorem State.dropTag_chLen : s.dropTag.chLen = s.chLen := rfl
@[simp] theorem State.dropTag_chPayload : s.dropTag.chPayload = s.chPayload := rfl
@[simp] theorem State.dropTag_inBuf : s.dropTag.inBuf = s.inBuf := rfl
@[simp] theorem State.dropTag_outBuf : s.dropTag.outBuf = s.outBuf := rfl
@[simp] theorem State.dropTag_host : s.dropTag.host = s.host := rfl
@[simp] theorem State.dropTag_turns : s.dropTag.turns = s.turns := rfl

end DropTagFields

section WithChunkFields
variable (t : Tag) (p : List Byte)

@[simp] theorem State.withChunk_cfg : (s.withChunk t p).cfg = s.cfg := rfl
@[simp] theorem State.withChunk_busy : (s.withChunk t p).busy = s.busy := rfl
@[simp] theorem State.withChunk_pending : (s.withChunk t p).pending = s.pending := rfl
@[simp] theorem State.withChunk_errCode : (s.withChunk t p).errCode = s.errCode := rfl
@[simp] theorem State.withChunk_errInfo0 : (s.withChunk t p).errInfo0 = s.errInfo0 := rfl
@[simp] theorem State.withChunk_errInfo1 : (s.withChunk t p).errInfo1 = s.errInfo1 := rfl
@[simp] theorem State.withChunk_result : (s.withChunk t p).result = s.result := rfl
@[simp] theorem State.withChunk_tagIn : (s.withChunk t p).tagIn = s.tagIn := rfl
@[simp] theorem State.withChunk_srcLen : (s.withChunk t p).srcLen = s.srcLen := rfl
@[simp] theorem State.withChunk_outLen : (s.withChunk t p).outLen = s.outLen := rfl
@[simp] theorem State.withChunk_tagPresent : (s.withChunk t p).tagPresent = s.tagPresent := rfl
@[simp] theorem State.withChunk_tag : (s.withChunk t p).tag = s.tag := rfl
@[simp] theorem State.withChunk_chValid : (s.withChunk t p).chValid = true := rfl
@[simp] theorem State.withChunk_chTag : (s.withChunk t p).chTag = t := rfl
@[simp] theorem State.withChunk_chLen : (s.withChunk t p).chLen = p.length := rfl
@[simp] theorem State.withChunk_chPayload : (s.withChunk t p).chPayload = p ++ s.chPayload.drop p.length := rfl
@[simp] theorem State.withChunk_inBuf : (s.withChunk t p).inBuf = s.inBuf := rfl
@[simp] theorem State.withChunk_outBuf : (s.withChunk t p).outBuf = s.outBuf := rfl
@[simp] theorem State.withChunk_host : (s.withChunk t p).host = s.host := rfl
@[simp] theorem State.withChunk_turns : (s.withChunk t p).turns = s.turns := rfl

end WithChunkFields

section DropChunkFields

@[simp] theorem State.dropChunk_cfg : s.dropChunk.cfg = s.cfg := rfl
@[simp] theorem State.dropChunk_busy : s.dropChunk.busy = s.busy := rfl
@[simp] theorem State.dropChunk_pending : s.dropChunk.pending = s.pending := rfl
@[simp] theorem State.dropChunk_errCode : s.dropChunk.errCode = s.errCode := rfl
@[simp] theorem State.dropChunk_errInfo0 : s.dropChunk.errInfo0 = s.errInfo0 := rfl
@[simp] theorem State.dropChunk_errInfo1 : s.dropChunk.errInfo1 = s.errInfo1 := rfl
@[simp] theorem State.dropChunk_result : s.dropChunk.result = s.result := rfl
@[simp] theorem State.dropChunk_tagIn : s.dropChunk.tagIn = s.tagIn := rfl
@[simp] theorem State.dropChunk_srcLen : s.dropChunk.srcLen = s.srcLen := rfl
@[simp] theorem State.dropChunk_outLen : s.dropChunk.outLen = s.outLen := rfl
@[simp] theorem State.dropChunk_tagPresent : s.dropChunk.tagPresent = s.tagPresent := rfl
@[simp] theorem State.dropChunk_tag : s.dropChunk.tag = s.tag := rfl
@[simp] theorem State.dropChunk_chValid : s.dropChunk.chValid = false := rfl
@[simp] theorem State.dropChunk_chTag : s.dropChunk.chTag = s.chTag := rfl
@[simp] theorem State.dropChunk_chLen : s.dropChunk.chLen = s.chLen := rfl
@[simp] theorem State.dropChunk_chPayload : s.dropChunk.chPayload = s.chPayload := rfl
@[simp] theorem State.dropChunk_inBuf : s.dropChunk.inBuf = s.inBuf := rfl
@[simp] theorem State.dropChunk_outBuf : s.dropChunk.outBuf = s.outBuf := rfl
@[simp] theorem State.dropChunk_host : s.dropChunk.host = s.host := rfl
@[simp] theorem State.dropChunk_turns : s.dropChunk.turns = s.turns := rfl

end DropChunkFields

section WithOutFields
variable (m : Memory) (n : Nat)

@[simp] theorem State.withOut_cfg : (s.withOut m n).cfg = s.cfg := rfl
@[simp] theorem State.withOut_busy : (s.withOut m n).busy = s.busy := rfl
@[simp] theorem State.withOut_pending : (s.withOut m n).pending = s.pending := rfl
@[simp] theorem State.withOut_errCode : (s.withOut m n).errCode = s.errCode := rfl
@[simp] theorem State.withOut_errInfo0 : (s.withOut m n).errInfo0 = s.errInfo0 := rfl
@[simp] theorem State.withOut_errInfo1 : (s.withOut m n).errInfo1 = s.errInfo1 := rfl
@[simp] theorem State.withOut_result : (s.withOut m n).result = s.result := rfl
@[simp] theorem State.withOut_tagIn : (s.withOut m n).tagIn = s.tagIn := rfl
@[simp] theorem State.withOut_srcLen : (s.withOut m n).srcLen = s.srcLen := rfl
@[simp] theorem State.withOut_outLen : (s.withOut m n).outLen = lengthWord n := rfl
@[simp] theorem State.withOut_tagPresent : (s.withOut m n).tagPresent = s.tagPresent := rfl
@[simp] theorem State.withOut_tag : (s.withOut m n).tag = s.tag := rfl
@[simp] theorem State.withOut_chValid : (s.withOut m n).chValid = s.chValid := rfl
@[simp] theorem State.withOut_chTag : (s.withOut m n).chTag = s.chTag := rfl
@[simp] theorem State.withOut_chLen : (s.withOut m n).chLen = s.chLen := rfl
@[simp] theorem State.withOut_chPayload : (s.withOut m n).chPayload = s.chPayload := rfl
@[simp] theorem State.withOut_inBuf : (s.withOut m n).inBuf = s.inBuf := rfl
@[simp] theorem State.withOut_outBuf : (s.withOut m n).outBuf = m := rfl
@[simp] theorem State.withOut_host : (s.withOut m n).host = s.host := rfl
@[simp] theorem State.withOut_turns : (s.withOut m n).turns = s.turns := rfl

end WithOutFields

section IssueFields
variable (w : Word)

@[simp] theorem State.issue_cfg : (s.issue w).cfg = s.cfg := rfl
@[simp] theorem State.issue_busy : (s.issue w).busy = true := rfl
@[simp] theorem State.issue_pending : (s.issue w).pending = w := rfl
@[simp] theorem State.issue_errCode : (s.issue w).errCode = s.errCode := rfl
@[simp] theorem State.issue_errInfo0 : (s.issue w).errInfo0 = s.errInfo0 := rfl
@[simp] theorem State.issue_errInfo1 : (s.issue w).errInfo1 = s.errInfo1 := rfl
@[simp] theorem State.issue_result : (s.issue w).result = s.result := rfl
@[simp] theorem State.issue_tagIn : (s.issue w).tagIn = s.tagIn := rfl
@[simp] theorem State.issue_srcLen : (s.issue w).srcLen = s.srcLen := rfl
@[simp] theorem State.issue_outLen : (s.issue w).outLen = s.outLen := rfl
@[simp] theorem State.issue_tagPresent : (s.issue w).tagPresent = s.tagPresent := rfl
@[simp] theorem State.issue_tag : (s.issue w).tag = s.tag := rfl
@[simp] theorem State.issue_chValid : (s.issue w).chValid = s.chValid := rfl
@[simp] theorem State.issue_chTag : (s.issue w).chTag = s.chTag := rfl
@[simp] theorem State.issue_chLen : (s.issue w).chLen = s.chLen := rfl
@[simp] theorem State.issue_chPayload : (s.issue w).chPayload = s.chPayload := rfl
@[simp] theorem State.issue_inBuf : (s.issue w).inBuf = s.inBuf := rfl
@[simp] theorem State.issue_outBuf : (s.issue w).outBuf = s.outBuf := rfl
@[simp] theorem State.issue_host : (s.issue w).host = s.host := rfl
@[simp] theorem State.issue_turns : (s.issue w).turns = s.turns := rfl

end IssueFields

section IdleFields

@[simp] theorem State.idle_cfg : s.idle.cfg = s.cfg := rfl
@[simp] theorem State.idle_busy : s.idle.busy = false := rfl
@[simp] theorem State.idle_pending : s.idle.pending = s.pending := rfl
@[simp] theorem State.idle_errCode : s.idle.errCode = s.errCode := rfl
@[simp] theorem State.idle_errInfo0 : s.idle.errInfo0 = s.errInfo0 := rfl
@[simp] theorem State.idle_errInfo1 : s.idle.errInfo1 = s.errInfo1 := rfl
@[simp] theorem State.idle_result : s.idle.result = s.result := rfl
@[simp] theorem State.idle_tagIn : s.idle.tagIn = s.tagIn := rfl
@[simp] theorem State.idle_srcLen : s.idle.srcLen = s.srcLen := rfl
@[simp] theorem State.idle_outLen : s.idle.outLen = s.outLen := rfl
@[simp] theorem State.idle_tagPresent : s.idle.tagPresent = s.tagPresent := rfl
@[simp] theorem State.idle_tag : s.idle.tag = s.tag := rfl
@[simp] theorem State.idle_chValid : s.idle.chValid = s.chValid := rfl
@[simp] theorem State.idle_chTag : s.idle.chTag = s.chTag := rfl
@[simp] theorem State.idle_chLen : s.idle.chLen = s.chLen := rfl
@[simp] theorem State.idle_chPayload : s.idle.chPayload = s.chPayload := rfl
@[simp] theorem State.idle_inBuf : s.idle.inBuf = s.inBuf := rfl
@[simp] theorem State.idle_outBuf : s.idle.outBuf = s.outBuf := rfl
@[simp] theorem State.idle_host : s.idle.host = s.host := rfl
@[simp] theorem State.idle_turns : s.idle.turns = s.turns := rfl

end IdleFields

section HostAtFields
variable (k : Nat) (v : Option Word)

@[simp] theorem State.hostAt_cfg : (s.hostAt k v).cfg = s.cfg := rfl
@[simp] theorem State.hostAt_busy : (s.hostAt k v).busy = s.busy := rfl
@[simp] theorem State.hostAt_pending : (s.hostAt k v).pending = s.pending := rfl
@[simp] theorem State.hostAt_errCode : (s.hostAt k v).errCode = s.errCode := rfl
@[simp] theorem State.hostAt_errInfo0 : (s.hostAt k v).errInfo0 = s.errInfo0 := rfl
@[simp] theorem State.hostAt_errInfo1 : (s.hostAt k v).errInfo1 = s.errInfo1 := rfl
@[simp] theorem State.hostAt_result : (s.hostAt k v).result = s.result := rfl
@[simp] theorem State.hostAt_tagIn : (s.hostAt k v).tagIn = s.tagIn := rfl
@[simp] theorem State.hostAt_srcLen : (s.hostAt k v).srcLen = s.srcLen := rfl
@[simp] theorem State.hostAt_outLen : (s.hostAt k v).outLen = s.outLen := rfl
@[simp] theorem State.hostAt_tagPresent : (s.hostAt k v).tagPresent = s.tagPresent := rfl
@[simp] theorem State.hostAt_tag : (s.hostAt k v).tag = s.tag := rfl
@[simp] theorem State.hostAt_chValid : (s.hostAt k v).chValid = s.chValid := rfl
@[simp] theorem State.hostAt_chTag : (s.hostAt k v).chTag = s.chTag := rfl
@[simp] theorem State.hostAt_chLen : (s.hostAt k v).chLen = s.chLen := rfl
@[simp] theorem State.hostAt_chPayload : (s.hostAt k v).chPayload = s.chPayload := rfl
@[simp] theorem State.hostAt_inBuf : (s.hostAt k v).inBuf = s.inBuf := rfl
@[simp] theorem State.hostAt_outBuf : (s.hostAt k v).outBuf = s.outBuf := rfl
@[simp] theorem State.hostAt_host : (s.hostAt k v).host = { s.host with pc := k, lastRead := v.getD s.host.lastRead } := rfl
@[simp] theorem State.hostAt_turns : (s.hostAt k v).turns = s.turns := rfl

end HostAtFields

section PopTurnFields

@[simp] theorem State.popTurn_cfg : s.popTurn.cfg = s.cfg := rfl
@[simp] theorem State.popTurn_busy : s.popTurn.busy = s.busy := rfl
@[simp] theorem State.popTurn_pending : s.popTurn.pending = s.pending := rfl
@[simp] theorem State.popTurn_errCode : s.popTurn.errCode = s.errCode := rfl
@[simp] theorem State.popTurn_errInfo0 : s.popTurn.errInfo0 = s.errInfo0 := rfl
@[simp] theorem State.popTurn_errInfo1 : s.popTurn.errInfo1 = s.errInfo1 := rfl
@[simp] theorem State.popTurn_result : s.popTurn.result = s.result := rfl
@[simp] theorem State.popTurn_tagIn : s.popTurn.tagIn = s.tagIn := rfl
@[simp] theorem State.popTurn_srcLen : s.popTurn.srcLen = s.srcLen := rfl
@[simp] theorem State.popTurn_outLen : s.popTurn.outLen = s.outLen := rfl
@[simp] theorem State.popTurn_tagPresent : s.popTurn.tagPresent = s.tagPresent := rfl
@[simp] theorem State.popTurn_tag : s.popTurn.tag = s.tag := rfl
@[simp] theorem State.popTurn_chValid : s.popTurn.chValid = s.chValid := rfl
@[simp] theorem State.popTurn_chTag : s.popTurn.chTag = s.chTag := rfl
@[simp] theorem State.popTurn_chLen : s.popTurn.chLen = s.chLen := rfl
@[simp] theorem State.popTurn_chPayload : s.popTurn.chPayload = s.chPayload := rfl
@[simp] theorem State.popTurn_inBuf : s.popTurn.inBuf = s.inBuf := rfl
@[simp] theorem State.popTurn_outBuf : s.popTurn.outBuf = s.outBuf := rfl
@[simp] theorem State.popTurn_host : s.popTurn.host = s.host := rfl
@[simp] theorem State.popTurn_turns : s.popTurn.turns = s.turns.tail := rfl

end PopTurnFields

section ApplyResetFields

@[simp] theorem State.applyReset_cfg : s.applyReset.cfg = s.cfg := rfl
@[simp] theorem State.applyReset_busy : s.applyReset.busy = false := rfl
@[simp] theorem State.applyReset_pending : s.applyReset.pending = 0 := rfl
@[simp] theorem State.applyReset_errCode : s.applyReset.errCode = .none := rfl
@[simp] theorem State.applyReset_errInfo0 : s.applyReset.errInfo0 = 0 := rfl
@[simp] theorem State.applyReset_errInfo1 : s.applyReset.errInfo1 = 0 := rfl
@[simp] theorem State.applyReset_result : s.applyReset.result = 0 := rfl
@[simp] theorem State.applyReset_tagIn : s.applyReset.tagIn = 0 := rfl
@[simp] theorem State.applyReset_srcLen : s.applyReset.srcLen = 0 := rfl
@[simp] theorem State.applyReset_outLen : s.applyReset.outLen = 0 := rfl
@[simp] theorem State.applyReset_tagPresent : s.applyReset.tagPresent = false := rfl
@[simp] theorem State.applyReset_chValid : s.applyReset.chValid = false := rfl
@[simp] theorem State.applyReset_chLen : s.applyReset.chLen = 0 := rfl
@[simp] theorem State.applyReset_chPayload : s.applyReset.chPayload = List.replicate s.cfg.payloadSize 0 := rfl
@[simp] theorem State.applyReset_inBuf : s.applyReset.inBuf = [] := rfl
@[simp] theorem State.applyReset_outBuf : s.applyReset.outBuf = [] := rfl
@[simp] theorem State.applyReset_host : s.applyReset.host = s.host := rfl
@[simp] theorem State.applyReset_turns : s.applyReset.turns = s.turns := rfl

end ApplyResetFields

end Sys2Proof.Machine
end

