-- ==== Sys2Proof/Laws/Ops.lean ====
section
/-! SUPPORT. For each shared operation, once, everything it can answer. -/

namespace Sys2Proof.Machine

variable {s t : State}

@[simp] theorem complete_eq (s : State) : complete s = .next (s.withErr .none 0 0) := rfl

@[simp] theorem raise_eq (e : ErrCode) (i0 i1 : Word) (s : State) : raise e i0 i1 s = .next (s.withErr e i0 i1) := rfl

theorem needTag_of_present {k : Tag → Outcome} (h : s.tagPresent = true) : needTag s k = k s.tag := by
  simp [needTag, h]

theorem needTag_of_absent {k : Tag → Outcome} (h : s.tagPresent = false) :
    needTag s k = .next (s.withErr .noTag 0 0) := by
  simp [needTag, h]

theorem needChunk_of_valid {k : Tag → List Byte → Outcome} (h : s.chValid = true) :
    needChunk s k = k s.chTag s.payload := by
  simp [needChunk, h]

theorem needChunk_of_invalid {k : Tag → List Byte → Outcome} (h : s.chValid = false) :
    needChunk s k = .next (s.withErr .noChunk 0 0) := by
  simp [needChunk, h]

/-- A command that reads the tag slot either goes on with the tag or answers NO_TAG. -/
theorem needTag_cases (s : State) (k : Tag → Outcome) :
    (s.tagPresent = true ∧ needTag s k = k s.tag) ∨
      (s.tagPresent = false ∧ needTag s k = .next (s.withErr .noTag 0 0)) := by
  rcases h : s.tagPresent with _ | _
  · exact .inr ⟨rfl, needTag_of_absent h⟩
  · exact .inl ⟨rfl, needTag_of_present h⟩

/-- A chunk accessor either goes on with the chunk or answers NO_CHUNK. -/
theorem needChunk_cases (s : State) (k : Tag → List Byte → Outcome) :
    (s.chValid = true ∧ needChunk s k = k s.chTag s.payload) ∨
      (s.chValid = false ∧ needChunk s k = .next (s.withErr .noChunk 0 0)) := by
  rcases h : s.chValid with _ | _
  · exact .inr ⟨rfl, needChunk_of_invalid h⟩
  · exact .inl ⟨rfl, needChunk_of_valid h⟩

/-- A predicate of the tag always answers a next state. -/
theorem tagPredicate_cases (p : Tag → Bool) (s : State) :
    (s.tagPresent = true ∧ tagPredicate p s = .next ((s.withResult (boolWord (p s.tag))).withErr .none 0 0)) ∨
      (s.tagPresent = false ∧ tagPredicate p s = .next (s.withErr .noTag 0 0)) := needTag_cases s _

/-- A command's read of IN goes on with the bytes, or faults UNINIT_READ. -/
theorem withIn_cases (s : State) (a n : Nat) (k : List Byte → Outcome) :
    (∃ bs, s.inBuf.readBytes a n = some bs ∧ withIn s a n k = k bs) ∨
      (s.inBuf.readBytes a n = none ∧ withIn s a n k = .fault .uninitRead) := by
  unfold withIn
  rcases h : s.inBuf.readBytes a n with _ | bs
  · exact .inr ⟨rfl, rfl⟩
  · exact .inl ⟨bs, rfl, rfl⟩

/-- The same for a read of four bytes. -/
theorem withIn4_cases (s : State) (a : Nat) (k : Bytes4 → Outcome) :
    (∃ t, s.inBuf.read4 a = some t ∧ withIn4 s a k = k t) ∨
      (s.inBuf.read4 a = none ∧ withIn4 s a k = .fault .uninitRead) := by
  unfold withIn4
  rcases h : s.inBuf.read4 a with _ | t
  · exact .inr ⟨rfl, rfl⟩
  · exact .inl ⟨t, rfl, rfl⟩

theorem withIn_of_some {a n : Nat} {bs : List Byte} {k : List Byte → Outcome} (h : s.inBuf.readBytes a n = some bs) :
    withIn s a n k = k bs := by simp [withIn, h]

theorem withIn_of_none {a n : Nat} {k : List Byte → Outcome} (h : s.inBuf.readBytes a n = none) :
    withIn s a n k = .fault .uninitRead := by simp [withIn, h]

theorem withIn4_of_some {a : Nat} {b : Bytes4} {k : Bytes4 → Outcome} (h : s.inBuf.read4 a = some b) :
    withIn4 s a k = k b := by simp [withIn4, h]

theorem withIn4_of_none {a : Nat} {k : Bytes4 → Outcome} (h : s.inBuf.read4 a = none) :
    withIn4 s a k = .fault .uninitRead := by simp [withIn4, h]

@[simp] theorem payload_length (s : State) : s.payload.length = min s.chLen s.chPayload.length := by
  simp [State.payload]

end Sys2Proof.Machine
end

