-- ==== Sys2Proof/Laws/Meanings.lean ====
section
/-! SUPPORT. Everything a command can do, said once: the inversion of every meaning and of `exec`. -/

namespace Sys2Proof.Machine

variable {s t : State}

/-- `Effect s i u e i0 i1`: the command i, from s, may make the writes that take s to u and complete with the error code e
and the info values i0 and i1 (no error where e is `none`). -/
inductive Effect (s : State) : Instr → State → ErrCode → Word → Word → Prop
  | nop : Effect s .nop s .none 0 0
  | tagFromBytes : Effect s .tagFromBytes (s.withTag (unpackTag s.tagIn)) .none 0 0
  | textLength (h : s.srcLen.toNat ≠ 4) : Effect s .tagFromText s.dropTag .tagLength s.srcLen 0
  | textCharacter {t : Tag} (h : s.srcLen.toNat = 4) (hr : s.inBuf.read4 0 = some t) (ha : allAlpha t = false) :
      Effect s .tagFromText s.dropTag .tagInvalidCharacter 0 0
  | textTag {t : Tag} (h : s.srcLen.toNat = 4) (hr : s.inBuf.read4 0 = some t) (ha : allAlpha t = true) :
      Effect s .tagFromText (s.withTag t) .none 0 0
  | noTag {i : Instr} (h : s.tagPresent = false)
      (hi : i ∈ [.tagBytes, .tagIsValid, .tagIsCritical, .tagIsPublic, .tagIsReservedBitValid, .tagIsSafeToCopy, .tagEq]) :
      Effect s i s .noTag 0 0
  | tagBytes (h : s.tagPresent = true) : Effect s .tagBytes (s.withResult (packTag s.tag)) .none 0 0
  | tagIsValid (h : s.tagPresent = true) : Effect s .tagIsValid (s.withResult (boolWord (isValid s.tag))) .none 0 0
  | tagIsCritical (h : s.tagPresent = true) :
      Effect s .tagIsCritical (s.withResult (boolWord (isCritical s.cfg.flagCase s.tag))) .none 0 0
  | tagIsPublic (h : s.tagPresent = true) :
      Effect s .tagIsPublic (s.withResult (boolWord (isPublic s.cfg.flagCase s.tag))) .none 0 0
  | tagIsReservedBitValid (h : s.tagPresent = true) :
      Effect s .tagIsReservedBitValid (s.withResult (boolWord (isReservedBitValid s.cfg.flagCase s.tag))) .none 0 0
  | tagIsSafeToCopy (h : s.tagPresent = true) :
      Effect s .tagIsSafeToCopy (s.withResult (boolWord (isSafeToCopy s.cfg.flagCase s.tag))) .none 0 0
  | tagEq (h : s.tagPresent = true) :
      Effect s .tagEq (s.withResult (boolWord (decide (s.tag = unpackTag s.tagIn)))) .none 0 0
  | crcRange (h : s.cfg.inSize < s.srcLen.toNat) : Effect s .crc32Raw s .srcRange s.srcLen 0
  | crc32Raw {bs : List Byte} (h : s.srcLen.toNat ≤ s.cfg.inSize) (hr : s.inBuf.readBytes 0 s.srcLen.toNat = some bs) :
      Effect s .crc32Raw (s.withResult (crc32 bs)) .none 0 0
  | newNoTag (h : s.tagPresent = false) : Effect s .chunkNew s.dropChunk .noTag 0 0
  | newRange (ht : s.tagPresent = true) (h : s.cfg.inSize < s.srcLen.toNat) :
      Effect s .chunkNew s.dropChunk .srcRange s.srcLen 0
  | chunkNew {p : List Byte} (ht : s.tagPresent = true) (h : s.srcLen.toNat ≤ s.cfg.inSize)
      (hr : s.inBuf.readBytes 0 s.srcLen.toNat = some p) : Effect s .chunkNew (s.withChunk s.tag p) .none 0 0
  | parseRange (h : s.cfg.inSize < s.srcLen.toNat) : Effect s .chunkParse s.dropChunk .srcRange s.srcLen 0
  | parseSmall (h : s.srcLen.toNat ≤ s.cfg.inSize) (hs : s.srcLen.toNat < 12) :
      Effect s .chunkParse s.dropChunk .chunkInputTooSmall 0 0
  | parseTag {d t : Bytes4} (h : s.srcLen.toNat ≤ s.cfg.inSize) (hs : 12 ≤ s.srcLen.toNat)
      (hd : s.inBuf.read4 0 = some d) (ht : s.inBuf.read4 4 = some t) (hv : isValid t = false) :
      Effect s .chunkParse s.dropChunk .chunkInvalidTagType 0 0
  | parseBounds {d t : Bytes4} (h : s.srcLen.toNat ≤ s.cfg.inSize) (hs : 12 ≤ s.srcLen.toNat)
      (hd : s.inBuf.read4 0 = some d) (ht : s.inBuf.read4 4 = some t) (hv : isValid t = true)
      (hn : s.srcLen.toNat - 12 < (be32Decode d).toNat) : Effect s .chunkParse s.dropChunk .chunkBounds 0 0
  | parseCrc {d t c : Bytes4} {p : List Byte} (h : s.srcLen.toNat ≤ s.cfg.inSize) (hs : 12 ≤ s.srcLen.toNat)
      (hd : s.inBuf.read4 0 = some d) (ht : s.inBuf.read4 4 = some t) (hv : isValid t = true)
      (hn : (be32Decode d).toNat ≤ s.srcLen.toNat - 12) (hp : s.inBuf.readBytes 8 (be32Decode d).toNat = some p)
      (hc : s.inBuf.read4 (8 + (be32Decode d).toNat) = some c) (hne : be32Decode c ≠ chunkCrc t p) :
      Effect s .chunkParse s.dropChunk .chunkInvalidCrc (be32Decode c) (chunkCrc t p)
  | chunkParse {d t c : Bytes4} {p : List Byte} (h : s.srcLen.toNat ≤ s.cfg.inSize) (hs : 12 ≤ s.srcLen.toNat)
      (hd : s.inBuf.read4 0 = some d) (ht : s.inBuf.read4 4 = some t) (hv : isValid t = true)
      (hn : (be32Decode d).toNat ≤ s.srcLen.toNat - 12) (hp : s.inBuf.readBytes 8 (be32Decode d).toNat = some p)
      (hc : s.inBuf.read4 (8 + (be32Decode d).toNat) = some c) (he : be32Decode c = chunkCrc t p) :
      Effect s .chunkParse ((s.withChunk t p).withResult (lengthWord (12 + (be32Decode d).toNat))) .none 0 0
  | noChunk {i : Instr} (h : s.chValid = false)
      (hi : i ∈ [.chunkSerialize, .chunkLength, .chunkType, .chunkData, .chunkCrc]) : Effect s i s .noChunk 0 0
  | chunkSerialize (h : s.chValid = true) :
      Effect s .chunkSerialize (s.withOut (serializeTo s.outBuf s.chLen s.chTag s.payload) (12 + s.chLen)) .none 0 0
  | chunkLength (h : s.chValid = true) : Effect s .chunkLength (s.withResult (lengthWord s.chLen)) .none 0 0
  | chunkType (h : s.chValid = true) :
      Effect s .chunkType ((s.withTag s.chTag).withResult (packTag s.chTag)) .none 0 0
  | chunkData (h : s.chValid = true) :
      Effect s .chunkData (s.withOut (s.outBuf.writeBytes 0 s.payload) s.chLen) .none 0 0
  | chunkCrc (h : s.chValid = true) : Effect s .chunkCrc (s.withResult (chunkCrc s.chTag s.payload)) .none 0 0

/-- The commands that read IN, and so can fault UNINIT_READ. -/
def readsIn : Instr → Bool
  | .tagFromText | .crc32Raw | .chunkNew | .chunkParse => true
  | _                                                  => false

/-- A command either completes with one of its effects, or reads an IN byte not written since reset. -/
def Answers (s : State) (i : Instr) (o : Outcome) : Prop :=
  (∃ u e i0 i1, Effect s i u e i0 i1 ∧ o = .next (u.withErr e i0 i1)) ∨ (readsIn i = true ∧ o = .fault .uninitRead)

theorem Answers.of_effect {i : Instr} {u : State} {e : ErrCode} {i0 i1 : Word} (h : Effect s i u e i0 i1) :
    Answers s i (.next (u.withErr e i0 i1)) := .inl ⟨u, e, i0, i1, h, rfl⟩

theorem execTagFromText_answers (s : State) : Answers s .tagFromText (execTagFromText s) := by
  unfold execTagFromText
  split
  · exact .of_effect (.textLength ‹_›)
  · rename_i h
    rcases withIn4_cases s 0 fun t => if allAlpha t then complete (s.withTag t)
        else raise .tagInvalidCharacter 0 0 s.dropTag with ⟨t, hr, e⟩ | ⟨-, e⟩
    · rw [e]
      split
      · exact .of_effect (.textTag (not_not.1 h) hr ‹_›)
      · rename_i ha
        exact .of_effect (.textCharacter (not_not.1 h) hr (by simpa using ha))
    · exact .inr ⟨rfl, e⟩

theorem execCrc32Raw_answers (s : State) : Answers s .crc32Raw (execCrc32Raw s) := by
  unfold execCrc32Raw
  split
  · exact .of_effect (.crcRange ‹_›)
  · rename_i h
    rcases withIn_cases s 0 s.srcLen.toNat fun bs => complete (s.withResult (crc32 bs)) with ⟨bs, hr, e⟩ | ⟨-, e⟩
    · rw [e]; exact .of_effect (.crc32Raw (not_lt.1 h) hr)
    · exact .inr ⟨rfl, e⟩

theorem execChunkNew_answers (s : State) : Answers s .chunkNew (execChunkNew s) := by
  unfold execChunkNew
  split
  · exact .of_effect (.newNoTag ‹_›)
  · rename_i ht
    have ht : s.tagPresent = true := by simpa using ht
    split
    · exact .of_effect (.newRange ht ‹_›)
    · rename_i h
      rcases withIn_cases s 0 s.srcLen.toNat fun p => complete (s.withChunk s.tag p) with ⟨p, hr, e⟩ | ⟨-, e⟩
      · rw [e]; exact .of_effect (.chunkNew ht (not_lt.1 h) hr)
      · exact .inr ⟨rfl, e⟩

/-- Steps 4 to 7 of CHUNK_PARSE, after the tag has passed. -/
theorem parseBody_answers {d t : Bytes4} (h : s.srcLen.toNat ≤ s.cfg.inSize) (hs : 12 ≤ s.srcLen.toNat)
    (hd : s.inBuf.read4 0 = some d) (ht : s.inBuf.read4 4 = some t) (hv : isValid t = true) :
    Answers s .chunkParse (parseBody s s.srcLen.toNat (be32Decode d).toNat t) := by
  unfold parseBody
  split
  · exact .of_effect (.parseBounds h hs hd ht hv ‹_›)
  · rename_i hn
    have hn := not_lt.1 hn
    rcases hp : s.inBuf.readBytes 8 (be32Decode d).toNat with _ | p
    · rw [withIn_of_none hp]; exact .inr ⟨rfl, rfl⟩
    · rw [withIn_of_some hp]
      rcases hc : s.inBuf.read4 (8 + (be32Decode d).toNat) with _ | c
      · rw [withIn4_of_none hc]; exact .inr ⟨rfl, rfl⟩
      · rw [withIn4_of_some hc]
        split
        · exact .of_effect (.chunkParse h hs hd ht hv hn hp hc ‹_›)
        · exact .of_effect (.parseCrc h hs hd ht hv hn hp hc ‹_›)

theorem execChunkParse_answers (s : State) : Answers s .chunkParse (execChunkParse s) := by
  unfold execChunkParse
  split
  · exact .of_effect (.parseRange ‹_›)
  · rename_i h
    have h := not_lt.1 h
    split
    · exact .of_effect (.parseSmall h ‹_›)
    · rename_i hs
      have hs := not_lt.1 hs
      rcases hd : s.inBuf.read4 0 with _ | d
      · rw [withIn4_of_none hd]; exact .inr ⟨rfl, rfl⟩
      · rw [withIn4_of_some hd]
        rcases ht : s.inBuf.read4 4 with _ | t
        · rw [withIn4_of_none ht]; exact .inr ⟨rfl, rfl⟩
        · rw [withIn4_of_some ht]
          split
          · exact parseBody_answers h hs hd ht ‹_›
          · rename_i hv
            exact .of_effect (.parseTag h hs hd ht (by simpa using hv))

/-- A predicate command's answer, from its effect. -/
theorem tagPredicate_answers {i : Instr} {p : Tag → Bool}
    (hi : i ∈ [.tagBytes, .tagIsValid, .tagIsCritical, .tagIsPublic, .tagIsReservedBitValid, .tagIsSafeToCopy, .tagEq])
    (h : s.tagPresent = true → Effect s i (s.withResult (boolWord (p s.tag))) .none 0 0) :
    Answers s i (tagPredicate p s) := by
  rcases tagPredicate_cases p s with ⟨ht, e⟩ | ⟨ht, e⟩
  · rw [e]; exact .of_effect (h ht)
  · rw [e]; exact .of_effect (.noTag ht hi)

/-- A chunk accessor's answer, from its effect. -/
theorem needChunk_answers {i : Instr} {k : Tag → List Byte → Outcome} {u : State}
    (hi : i ∈ [.chunkSerialize, .chunkLength, .chunkType, .chunkData, .chunkCrc])
    (hk : k s.chTag s.payload = complete u) (h : s.chValid = true → Effect s i u .none 0 0) :
    Answers s i (needChunk s k) := by
  rcases needChunk_cases s k with ⟨hc, e⟩ | ⟨hc, e⟩
  · rw [e, hk]; exact .of_effect (h hc)
  · rw [e]; exact .of_effect (.noChunk hc hi)

/-- What `exec` can answer, for every command. -/
theorem exec_answers (i : Instr) (s : State) : Answers s i (exec i s) := by
  cases i with
  | nop => exact .of_effect .nop
  | tagFromBytes => exact .of_effect .tagFromBytes
  | tagFromText => exact execTagFromText_answers s
  | tagBytes =>
    rcases needTag_cases s fun t => complete (s.withResult (packTag t)) with ⟨ht, e⟩ | ⟨ht, e⟩
    · simp only [exec, execTagBytes, e]; exact .of_effect (.tagBytes ht)
    · simp only [exec, execTagBytes, e]; exact .of_effect (.noTag ht (by simp))
  | tagIsValid =>
    simp only [exec, execTagIsValid]
    exact tagPredicate_answers (by decide) .tagIsValid
  | tagIsCritical =>
    simp only [exec, execTagIsCritical]
    exact tagPredicate_answers (by decide) .tagIsCritical
  | tagIsPublic =>
    simp only [exec, execTagIsPublic]
    exact tagPredicate_answers (by decide) .tagIsPublic
  | tagIsReservedBitValid =>
    simp only [exec, execTagIsReservedBitValid]
    exact tagPredicate_answers (by decide) .tagIsReservedBitValid
  | tagIsSafeToCopy =>
    simp only [exec, execTagIsSafeToCopy]
    exact tagPredicate_answers (by decide) .tagIsSafeToCopy
  | tagEq =>
    simp only [exec, execTagEq]
    exact tagPredicate_answers (by decide) .tagEq
  | crc32Raw => exact execCrc32Raw_answers s
  | chunkNew => exact execChunkNew_answers s
  | chunkParse => exact execChunkParse_answers s
  | chunkSerialize =>
    simp only [exec, execChunkSerialize]
    exact needChunk_answers (by decide) rfl .chunkSerialize
  | chunkLength =>
    simp only [exec, execChunkLength]
    exact needChunk_answers (by decide) rfl .chunkLength
  | chunkType =>
    simp only [exec, execChunkType]
    exact needChunk_answers (by decide) rfl .chunkType
  | chunkData =>
    simp only [exec, execChunkData]
    exact needChunk_answers (by decide) rfl .chunkData
  | chunkCrc =>
    simp only [exec, execChunkCrc]
    exact needChunk_answers (by decide) rfl .chunkCrc

/-- The state a command ends in is one of its effects with the error report written. -/
theorem exec_next {i : Instr} (h : exec i s = .next t) : ∃ u e i0 i1, Effect s i u e i0 i1 ∧ t = u.withErr e i0 i1 := by
  rcases exec_answers i s with ⟨u, e, i0, i1, he, ho⟩ | ⟨-, ho⟩
  · rw [h] at ho; exact ⟨u, e, i0, i1, he, by injection ho⟩
  · rw [h] at ho; cases ho

/-- A command that raises nothing reports no values (R203, R205). -/
theorem Effect.info_of_none {i : Instr} {u : State} {i0 i1 : Word} (h : Effect s i u .none i0 i1) : i0 = 0 ∧ i1 = 0 := by
  generalize he : ErrCode.none = e at h
  cases h <;> first | exact ⟨rfl, rfl⟩ | cases he

end Sys2Proof.Machine
end

