-- ==== Sys2Proof/Laws/PerInstr.lean ====
section
/-! SUPPORT. Facts about every command as syntax, one lemma a constructor (30_encoding.md R80). -/

namespace Sys2Proof.Laws.Encoding

/-- A command is well formed, and its word holds its OPCODE below 24 zero bits (R80). -/
def Statement (i : Instr) : Prop :=
  i.wf = true ∧ opcodeField (encode i) = opcodeOf i ∧ reservedField (encode i) = 0

theorem nop : Statement .nop := by unfold Statement; decide
theorem tagFromBytes : Statement .tagFromBytes := by unfold Statement; decide
theorem tagFromText : Statement .tagFromText := by unfold Statement; decide
theorem tagBytes : Statement .tagBytes := by unfold Statement; decide
theorem tagIsValid : Statement .tagIsValid := by unfold Statement; decide
theorem tagIsCritical : Statement .tagIsCritical := by unfold Statement; decide
theorem tagIsPublic : Statement .tagIsPublic := by unfold Statement; decide
theorem tagIsReservedBitValid : Statement .tagIsReservedBitValid := by unfold Statement; decide
theorem tagIsSafeToCopy : Statement .tagIsSafeToCopy := by unfold Statement; decide
theorem tagEq : Statement .tagEq := by unfold Statement; decide
theorem crc32Raw : Statement .crc32Raw := by unfold Statement; decide
theorem chunkNew : Statement .chunkNew := by unfold Statement; decide
theorem chunkParse : Statement .chunkParse := by unfold Statement; decide
theorem chunkSerialize : Statement .chunkSerialize := by unfold Statement; decide
theorem chunkLength : Statement .chunkLength := by unfold Statement; decide
theorem chunkType : Statement .chunkType := by unfold Statement; decide
theorem chunkData : Statement .chunkData := by unfold Statement; decide
theorem chunkCrc : Statement .chunkCrc := by unfold Statement; decide

end Sys2Proof.Laws.Encoding
end

