-- ==== Sys2Proof/Laws/Stated.lean ====
section
/-! SUPPORT. The words the statements are written in, tied to the functions the meanings are written over. -/

namespace Sys2Proof.Stated

open Sys2Proof.Machine

theorem isAlpha_iff (b : Byte) : isAlpha b = true ↔ letter b := by
  simp [isAlpha, isUpper, isLower, letter, upperCase, lowerCase]

theorem allAlpha_iff (t : Tag) : allAlpha t = true ↔ letter t.b0 ∧ letter t.b1 ∧ letter t.b2 ∧ letter t.b3 := by
  simp [allAlpha, isAlpha_iff, and_assoc]

theorem isValid_iff (t : Tag) : isValid t = true ↔ validTag t := by
  simp [isValid, allAlpha, isAlpha_iff, and_assoc, validTag, isUpper, upperCase]

theorem flagUpper_iff (c : Config) (b : Byte) : flagUpper c.flagCase b = true ↔ flagIsUpper c b := by
  unfold flagUpper flagIsUpper upperCase isUpper
  cases c.flagCase <;> simp

theorem flagLower_iff (c : Config) (b : Byte) : flagLower c.flagCase b = true ↔ flagIsLower c b := by
  unfold flagLower flagIsLower lowerCase isLower
  cases c.flagCase <;> simp

theorem toList_eq_four (t : Bytes4) : t.toList = four t := rfl

/-- A 4-byte read gives exactly the bytes that are there. -/
theorem read4_iff {m : Memory} {a : Nat} {t : Bytes4} : m.read4 a = some t ↔ bytesAre m a (four t) := by
  rw [Memory.read4_eq_some]
  constructor
  · rintro ⟨h0, h1, h2, h3⟩ k hk
    have : k = 0 ∨ k = 1 ∨ k = 2 ∨ k = 3 := by simp [four] at hk; omega
    rcases this with rfl | rfl | rfl | rfl
    · simpa [four] using h0
    · simpa [four] using h1
    · simpa [four] using h2
    · simpa [four] using h3
  · intro h
    exact ⟨h 0 (by simp [four]), h 1 (by simp [four]), h 2 (by simp [four]), h 3 (by simp [four])⟩

theorem readBytes_iff {m : Memory} {a n : Nat} {bs : List Byte} :
    m.readBytes a n = some bs ↔ bs.length = n ∧ bytesAre m a bs := by
  rw [Memory.readBytes_eq_some]
  constructor <;> rintro ⟨rfl, h⟩ <;> exact ⟨rfl, h⟩

theorem bytesAre_of_readBytes {m : Memory} {a : Nat} (n : Nat) {bs : List Byte} (h : m.readBytes a n = some bs) :
    bytesAre m a bs := (readBytes_iff.1 h).2

theorem read4_none_iff {m : Memory} {a : Nat} : m.read4 a = none ↔ unwritten m a 4 := Memory.read4_eq_none

theorem readBytes_none_iff {m : Memory} {a n : Nat} : m.readBytes a n = none ↔ unwritten m a n := Memory.readBytes_eq_none

theorem bytesAre_append {m : Memory} {a : Nat} {x y : List Byte} :
    bytesAre m a (x ++ y) ↔ bytesAre m a x ∧ bytesAre m (a + x.length) y := by
  constructor
  · intro h
    refine ⟨fun k hk => ?_, fun k hk => ?_⟩
    · rw [h k (by simp; omega), List.getElem?_append_left hk]
    · have := h (x.length + k) (by simp; omega)
      rw [← add_assoc] at this
      rw [this, List.getElem?_append_right (by omega)]
      simp
  · rintro ⟨h1, h2⟩ k hk
    by_cases hx : k < x.length
    · rw [h1 k hx, List.getElem?_append_left hx]
    · have := h2 (k - x.length) (by simp at hk; omega)
      rw [show a + x.length + (k - x.length) = a + k by omega] at this
      rw [this, List.getElem?_append_right (by omega)]

/-- Bytes just written are there. -/
theorem bytesAre_writeBytes (m : Memory) (a : Nat) (bs : List Byte) : bytesAre (m.writeBytes a bs) a bs :=
  fun _ h => Memory.read_writeBytes h

/-- A write elsewhere leaves them. -/
theorem bytesAre_writeBytes_other {m : Memory} {a x : Nat} {bs cs : List Byte} (h : bytesAre m a bs)
    (hd : a + bs.length ≤ x ∨ x + cs.length ≤ a) : bytesAre (m.writeBytes x cs) a bs := fun k hk => by
  rw [Memory.read_writeBytes_other (by omega)]
  exact h k hk

/-- The register at an offset is at that offset. -/
theorem offset_of_regAt {o : Nat} {r : RegName} (h : regAt o = some r) : o = r.offset := by
  unfold regAt at h
  split at h <;> first | (injection h with h; subst h; rfl) | cases h

/-- The turns to come play no part in what an access does. -/
theorem writeOffset_turns (s : State) (l : List Turn) (o : Nat) (w : Word) :
    writeOffset { s with turns := l } o w = { writeOffset s o w with turns := l } := by
  unfold writeOffset
  rcases regAt o with _ | r
  · rfl
  · cases r <;> rfl

theorem hostAccess_turns (s : State) (l : List Turn) (a : Access) :
    hostAccess { s with turns := l } a = (hostAccess s a).map fun p => ({ p.1 with turns := l }, p.2) := by
  unfold hostAccess
  simp only [writeOffset_turns]
  split
  · rfl
  · split
    · rfl
    · split
      · rfl
      · rfl
      · split <;> simp_all [Except.map]
      · rfl
      · split
        · split <;> simp_all [Except.map]
        · rfl
      · rfl

end Sys2Proof.Stated
end

