-- ==== Sys2Proof/Laws/Step.lean ====
section
/-! SUPPORT. What one step can do, by whose turn it is, and what one host access can do. -/

namespace Sys2Proof.Machine

variable {s t : State}

theorem step_engine (h : s.turn = .engine) : step s = engineTurn s.popTurn := by simp [step, h]

theorem step_host (h : s.turn = .host) : step s = hostTurn s.popTurn := by simp [step, h]

theorem step_reset (h : s.turn = .reset) : step s = .next s.popTurn.applyReset := by simp [step, h]

/-- The three shapes of a step. -/
theorem step_cases (s : State) :
    step s = engineTurn s.popTurn ∨ step s = hostTurn s.popTurn ∨ step s = .next s.popTurn.applyReset := by
  rcases h : s.turn with _ | _ | _
  · exact .inr (.inl (step_host h))
  · exact .inl (step_engine h)
  · exact .inr (.inr (step_reset h))

/-- The engine's turn that answers a next state: it was idle, it answered ILLEGAL_CMD, or it carried out a command. -/
theorem engineTurn_next (h : engineTurn s = .next t) :
    (s.busy = false ∧ t = s) ∨
      (s.busy = true ∧ (∃ e, decode s.pending = .error e) ∧ t = (s.withErr .illegalCmd s.pending 0).idle) ∨
      (s.busy = true ∧ ∃ i u, decode s.pending = .ok i ∧ exec i s = .next u ∧ t = u.idle) := by
  unfold engineTurn at h
  split at h
  · rename_i hb
    unfold runPending at h
    rcases hd : decode s.pending with e | i
    · rw [hd] at h
      refine .inr (.inl ⟨hb, ⟨e, rfl⟩, ?_⟩)
      injection h with h; exact h.symm
    · rw [hd] at h
      refine .inr (.inr ⟨hb, i, ?_⟩)
      dsimp only at h
      rcases hx : exec i s with u | f | r
      · rw [hx] at h; injection h with h; exact ⟨u, rfl, rfl, h.symm⟩
      · rw [hx] at h; cases h
      · rw [hx] at h; cases h
  · rename_i hb
    injection h with h
    exact .inl ⟨by simpa using hb, h.symm⟩

/-- The state after a host access that does not fault: unchanged, a register written, or a byte of IN written inside IN. -/
theorem hostAccess_ok {a : Access} {v : Option Word} (h : hostAccess s a = .ok (t, v)) :
    t = s ∨ (∃ w, s.busy = false ∧ t = writeOffset s a.offset w) ∨
      (∃ b, s.busy = false ∧ a.offset < s.cfg.inSize ∧ t = { s with inBuf := s.inBuf.write a.offset b }) := by
  unfold hostAccess at h
  split at h
  · cases h
  · rename_i hbus
    split at h
    · cases h
    · rename_i hhaz
      split at h
      · injection h with h; injection h with h _; exact .inl h.symm
      · rename_i w hs hd
        injection h with h; injection h with h _
        refine .inr (.inl ⟨w, ?_, h.symm⟩)
        simpa [allowedWhileBusy, hs, hd, Direction.isWrite] using hhaz
      · split at h
        · injection h with h; injection h with h _; exact .inl h.symm
        · cases h
      · rename_i w hs hd
        injection h with h; injection h with h _
        refine .inr (.inr ⟨_, by simpa [allowedWhileBusy, hs] using hhaz, ?_, h.symm⟩)
        simp [busError, hs] at hbus
        omega
      · split at h
        · split at h
          · injection h with h; injection h with h _; exact .inl h.symm
          · cases h
        · cases h
      · cases h

/-- What a register write can do: nothing, issue a command, or write one of the two operand registers. -/
theorem writeOffset_cases (s : State) (off : Nat) (w : Word) :
    writeOffset s off w = s ∨ writeOffset s off w = s.issue w ∨ writeOffset s off w = { s with tagIn := w } ∨
      writeOffset s off w = { s with srcLen := w } := by
  unfold writeOffset
  rcases regAt off with _ | r
  · exact .inl rfl
  · cases r <;> simp [writeReg]

/-- A host access leaves the turns, the parameters and the host alone. -/
theorem hostAccess_keeps {a : Access} {v : Option Word} (h : hostAccess s a = .ok (t, v)) :
    t.turns = s.turns ∧ t.cfg = s.cfg ∧ t.host = s.host := by
  rcases hostAccess_ok h with rfl | ⟨w, -, rfl⟩ | ⟨b, -, -, rfl⟩
  · exact ⟨rfl, rfl, rfl⟩
  · rcases writeOffset_cases s a.offset w with e | e | e | e <;> rw [e] <;> exact ⟨rfl, rfl, rfl⟩
  · exact ⟨rfl, rfl, rfl⟩

/-- A transaction's next state: the access's, with the host moved on to its next line. -/
theorem transact_next {a : Access} (h : transact s a = .next t) :
    ∃ u v, hostAccess s a = .ok (u, v) ∧ t = u.hostAt (s.host.pc + 1) v := by
  unfold transact at h
  rcases ha : hostAccess s a with f | ⟨u, v⟩
  · rw [ha] at h; cases h
  · rw [ha] at h; injection h with h; exact ⟨u, v, rfl, h.symm⟩

/-- A bit of the value reads as itself. -/
theorem testedBit_of_lt {v : Word} {bit : Nat} (h : bit < 32) : testedBit v bit = v.getLsbD bit := if_pos h

/-- A branch to a label the program defines goes to it. -/
theorem branchTarget_of_some {prog : List HostLine} {pc k : Nat} {l : Label} (h : findLabel prog l = some k) :
    branchTarget prog pc l = k := by rw [branchTarget, h, Option.getD_some]

/-- What the host's turn can do: nothing (its program is over), move in its program, or make one access. -/
theorem hostTurn_next (h : hostTurn s = .next t) :
    t = s ∨ (∃ k, t = s.hostAt k none) ∨ (∃ a u v, hostAccess s a = .ok (u, v) ∧ t = u.hostAt (s.host.pc + 1) v) := by
  unfold hostTurn at h
  split at h
  · rename_i line _
    have access : ∀ a, transact s a = .next t → t = s ∨ (∃ k, t = s.hostAt k none) ∨
        (∃ a u v, hostAccess s a = .ok (u, v) ∧ t = u.hostAt (s.host.pc + 1) v) := fun a h => by
      obtain ⟨u, v, hu, ht⟩ := transact_next h
      exact .inr (.inr ⟨a, u, v, hu, ht⟩)
    cases line with
    | wr r v => exact access _ h
    | rd r => exact access _ h
    | wrb off b => exact access _ h
    | rdbIn off => exact access _ h
    | rdbOut off => exact access _ h
    | cmd i => exact access _ h
    | label l => injection h with h; exact .inr (.inl ⟨_, h.symm⟩)
    | bit1 b l => injection h with h; exact .inr (.inl ⟨_, h.symm⟩)
    | access a => exact access _ h
    | bus ad wd d =>
      simp only [runLine] at h
      split at h
      · exact access _ h
      · cases h
  · injection h with h; exact .inl h.symm

/-- One turn fewer after a step of the engine's that answers a next state. -/
theorem engineTurn_turns (h : engineTurn s = .next t) : t.turns = s.turns := by
  rcases engineTurn_next h with ⟨-, rfl⟩ | ⟨-, -, rfl⟩ | ⟨-, i, u, -, hx, rfl⟩
  · rfl
  · rfl
  · obtain ⟨v, e, i0, i1, he, rfl⟩ := exec_next hx
    cases he <;> rfl

theorem hostTurn_turns (h : hostTurn s = .next t) : t.turns = s.turns := by
  rcases hostTurn_next h with rfl | ⟨k, rfl⟩ | ⟨a, u, v, ha, rfl⟩
  · rfl
  · rfl
  · exact (hostAccess_keeps ha).1

/-- Every step takes one turn off the list. -/
theorem step_turns (h : step s = .next t) : t.turns = s.turns.tail := by
  rcases step_cases s with e | e | e <;> rw [e] at h
  · exact engineTurn_turns h
  · exact hostTurn_turns h
  · injection h with h; subst h; rfl

/-- A run whose first step answers a next state goes on from it. -/
theorem run_of_next (M : Host.Core) {k : Nat} {x y : M.State} (h : M.step x = .next y) : M.run (k + 1) x = M.run k y := by
  rw [Host.Core.run, h]

/-- A run stops at the first fault. -/
theorem run_of_fault (M : Host.Core) {k : Nat} {x : M.State} {f : M.Fault} (h : M.step x = .fault f) :
    M.run (k + 1) x = .fault f := by
  rw [Host.Core.run, h]

/-- A run stops at the first refusal. -/
theorem run_of_refused (M : Host.Core) {k : Nat} {x : M.State} {r : M.Refusal} (h : M.step x = .refused r) :
    M.run (k + 1) x = .refused r := by
  rw [Host.Core.run, h]

theorem core_run_zero (s : State) : Sys2Proof.core.run 0 s = .next s := rfl

theorem core_run_of_next {k : Nat} (h : step s = .next t) : Sys2Proof.core.run (k + 1) s = Sys2Proof.core.run k t :=
  run_of_next Sys2Proof.core h

theorem core_run_of_fault {k : Nat} {f : Fault} (h : step s = .fault f) : Sys2Proof.core.run (k + 1) s = .fault f :=
  run_of_fault Sys2Proof.core h

theorem core_run_of_refused {k : Nat} {r : Refusal} (h : step s = .refused r) :
    Sys2Proof.core.run (k + 1) s = .refused r :=
  run_of_refused Sys2Proof.core h

end Sys2Proof.Machine
end

