-- ==== Sys2Proof/Tests/Slice0.lean ====
section
/-! SUPPORT. Our own tests: what the well-formedness checks refuse, command words written out from R80 and R82, the vectors
of spec/95_test_vectors.md (each test names its row), and, for every statement with hypotheses, a state and operands that
meet them. -/

namespace Sys2Proof.Tests

open Sys2Proof.Machine Sys2Proof.Stated

/-! ## Helpers -/

/-- "RuSt" -/
def ruSt : Tag := { b0 := 0x52, b1 := 0x75, b2 := 0x53, b3 := 0x74 }

/-- "Rust" -/
def rust : Tag := { b0 := 0x52, b1 := 0x75, b2 := 0x73, b3 := 0x74 }

/-- W3 of 95_test_vectors.md section 2.5: wire("RuSt", "hi"). -/
def w3 : List Byte := [0x00, 0x00, 0x00, 0x02, 0x52, 0x75, 0x53, 0x74, 0x68, 0x69, 0xd2, 0xbc, 0x3f, 0x73]

/-- The reset state with bytes in IN from offset 0 and a value in SRC_LEN. -/
def loaded (bs : List Byte) (n : Word) : State := { State.reset with inBuf := Memory.writeBytes [] 0 bs, srcLen := n }

/-- The reset state with a tag in the tag slot. -/
def tagged (t : Tag) : State := State.reset.withTag t

/-- The same under FLAG_CASE_RULE = BIT5. -/
def taggedBit5 (t : Tag) : State := { tagged t with cfg := { Config.vectors with flagCase := .bit5 } }

/-- The reset state with a chunk in the chunk slot. -/
def chunked (t : Tag) (p : List Byte) : State := State.reset.withChunk t p

/-- The reset state after a host program and the turns to come have been given. -/
def hosted (prog : List HostLine) (turns : List Turn) : State := { State.reset with host := HostAgent.start prog, turns := turns }

/-- The reset state with a command word issued and the engine to move. -/
def issued (w : Word) : State := State.reset.withFetchWord 32 w.toNat

/-- One part of the state after an outcome. -/
def after {α : Type} (o : Outcome) (f : State → α) : Option α := (stateAfter o).map f

/-- The value a host access reads. -/
def valueRead (r : Except Fault (State × Option Word)) : Option Word :=
  match r with
  | .ok (_, v) => v
  | .error _   => none

/-- The fault a host access ends in. -/
def accessFault (r : Except Fault (State × Option Word)) : Option Fault :=
  match r with
  | .ok _    => none
  | .error f => some f

/-- The outcome is a next state. -/
def goesOn (o : Outcome) : Bool := (stateAfter o).isSome

theorem next_of_goesOn {o : Outcome} (h : goesOn o = true) : ∃ t, o = .next t := by
  rcases o with t | f | r
  · exact ⟨t, rfl⟩
  · cases h
  · cases h

theorem next_and_of_after {o : Outcome} {p : State → Bool} (h : after o p = some true) : ∃ t, o = .next t ∧ p t = true := by
  rcases o with t | f | r
  · exact ⟨t, rfl, Option.some.inj h⟩
  · cases h
  · cases h

/-! ## What the well-formedness checks refuse -/

theorem test_wf_vectors : Config.vectors.wf = true := by decide

theorem test_sizes_refuse_small_in : { Config.vectors with inSize := 11 }.sizesOk = false := by decide

theorem test_sizes_refuse_in_above_payload : { Config.vectors with inSize := 65 }.sizesOk = false := by decide

theorem test_sizes_refuse_small_out : { Config.vectors with outSize := 75 }.sizesOk = false := by decide

theorem test_sizes_refuse_wide_out : { Config.vectors with outSize := 2 ^ 32 }.sizesOk = false := by decide

theorem test_bases_refuse_overlap : { Config.vectors with inBase := 0x3F }.wf = false := by decide

theorem test_bases_refuse_reg_over_out : { Config.vectors with outBase := 0x3F }.basesOk = false := by decide

theorem test_bases_refuse_in_over_out : { Config.vectors with outBase := 0x103F }.basesOk = false := by decide

theorem test_program_accepts_issue : hostProgramWf (issueLines .nop 0) = true := by decide

theorem test_program_refuses_second_label : hostProgramWf [.label 0, .label 0] = false := by decide

theorem test_program_refuses_undefined_label : hostProgramWf [.rd .status, .bit1 0 7] = false := by decide

theorem test_program_refuses_bit_32 : hostProgramWf [.label 0, .rd .status, .bit1 32 0] = false := by decide

theorem test_program_refuses_bit_before_read : hostProgramWf [.label 0, .bit1 0 0] = false := by decide

/-! ## Command words, bit by bit (R80: RSVD in bits 31:8, OPCODE in bits 7:0; the table of R82) -/

theorem test_decode_control : decode 0b00000000000000000000000000000000#32 = .ok .nop := by decide

theorem test_decode_typetag :
    decode 0b00000000000000000000000000000001#32 = .ok .tagFromBytes ∧
    decode 0b00000000000000000000000000000010#32 = .ok .tagFromText ∧
    decode 0b00000000000000000000000000000011#32 = .ok .tagBytes ∧
    decode 0b00000000000000000000000000000100#32 = .ok .tagIsValid ∧
    decode 0b00000000000000000000000000000101#32 = .ok .tagIsCritical ∧
    decode 0b00000000000000000000000000000110#32 = .ok .tagIsPublic ∧
    decode 0b00000000000000000000000000000111#32 = .ok .tagIsReservedBitValid ∧
    decode 0b00000000000000000000000000001000#32 = .ok .tagIsSafeToCopy ∧
    decode 0b00000000000000000000000000001001#32 = .ok .tagEq := by decide

theorem test_decode_crc32 : decode 0b00000000000000000000000000010000#32 = .ok .crc32Raw := by decide

theorem test_decode_chunk :
    decode 0b00000000000000000000000000100000#32 = .ok .chunkNew ∧
    decode 0b00000000000000000000000000100001#32 = .ok .chunkParse ∧
    decode 0b00000000000000000000000000100010#32 = .ok .chunkSerialize ∧
    decode 0b00000000000000000000000000100011#32 = .ok .chunkLength ∧
    decode 0b00000000000000000000000000100100#32 = .ok .chunkType ∧
    decode 0b00000000000000000000000000100101#32 = .ok .chunkData ∧
    decode 0b00000000000000000000000000100110#32 = .ok .chunkCrc := by decide

/-- EN-2 to EN-7: RSVD not 0, and the edges of the unassigned ranges of R83. -/
theorem test_decode_illegal :
    decode 0x00000100 = .error .reservedBits ∧ decode 0x01000021 = .error .reservedBits ∧
    decode 0xFFFFFFFF = .error .reservedBits ∧ decode 0x0000000A = .error .unassignedOpcode ∧
    decode 0x0000000F = .error .unassignedOpcode ∧ decode 0x00000011 = .error .unassignedOpcode ∧
    decode 0x0000001F = .error .unassignedOpcode ∧ decode 0x00000027 = .error .unassignedOpcode ∧
    decode 0x000000FF = .error .unassignedOpcode := by decide

theorem test_decodeTableWord :
    decodeTableWord 32 0x21 = some .chunkParse ∧ decodeTableWord 32 0x0A = none ∧ decodeTableWord 32 (2 ^ 32) = none := by
  decide

/-! ## One step of a command (section 2 of 95_test_vectors.md) -/

/-- EN-1, after an error. -/
theorem test_nop : after (exec .nop (State.reset.withErr .noTag 0 0)) (·.errCode) = some .none := by decide

/-- TT-1. -/
theorem test_tag_from_bytes :
    after (exec .tagFromBytes { State.reset with tagIn := 0x52755374 }) (fun s => (s.tag, s.tagPresent)) = some (ruSt, true) := by
  decide

/-- TT-7: no validity check (R111). -/
theorem test_tag_from_text :
    after (exec .tagFromText (loaded [0x52, 0x75, 0x73, 0x74] 4)) (fun s => (s.errCode, s.tag)) = some (.none, rust) := by decide

/-- TT-11: 0x5B is just above 'Z'; a tag that was there is gone. -/
theorem test_tag_from_text_character :
    after (exec .tagFromText ((loaded [0x41, 0x42, 0x43, 0x5b] 4).withTag ruSt)) (fun s => (s.errCode, s.tagPresent)) =
      some (.tagInvalidCharacter, false) := by decide

/-- BE-7. -/
theorem test_tag_bytes : after (exec .tagBytes (tagged ruSt)) (·.result) = some 0x52755374 := by decide

/-- Section 2.2, "No tag". -/
theorem test_tag_bytes_no_tag :
    after (exec .tagBytes { State.reset with result := 7 }) (fun s => (s.errCode, s.result)) = some (.noTag, 7) := by decide

/-- TF-1. -/
theorem test_tag_is_valid : after (exec .tagIsValid (tagged ruSt)) (·.result) = some 1 := by decide

/-- TF-11: the reserved bit is valid, and the tag is not. -/
theorem test_tag_is_valid_digit : after (exec .tagIsValid (tagged ⟨0x31, 0x78, 0x53, 0x78⟩)) (·.result) = some 0 := by decide

/-- TF-14, ASCII_CASE. -/
theorem test_tag_is_critical : after (exec .tagIsCritical (tagged ⟨0x40, 0x41, 0x5b, 0x61⟩)) (·.result) = some 0 := by decide

/-- TF-14, BIT5. -/
theorem test_tag_is_critical_bit5 :
    after (exec .tagIsCritical (taggedBit5 ⟨0x40, 0x41, 0x5b, 0x61⟩)) (·.result) = some 1 := by decide

/-- TF-8. -/
theorem test_tag_is_public : after (exec .tagIsPublic (tagged ⟨0x72, 0x75, 0x53, 0x74⟩)) (·.result) = some 0 := by decide

/-- TF-12, BIT5. -/
theorem test_tag_is_public_bit5 : after (exec .tagIsPublic (taggedBit5 ⟨0, 0, 0, 0⟩)) (·.result) = some 1 := by decide

/-- TF-2. -/
theorem test_tag_is_reserved_bit_valid : after (exec .tagIsReservedBitValid (tagged rust)) (·.result) = some 0 := by decide

/-- TF-14, BIT5. -/
theorem test_tag_is_reserved_bit_valid_bit5 :
    after (exec .tagIsReservedBitValid (taggedBit5 ⟨0x40, 0x41, 0x5b, 0x61⟩)) (·.result) = some 1 := by decide

/-- TF-15. -/
theorem test_tag_is_safe_to_copy :
    after (exec .tagIsSafeToCopy (tagged ⟨0x60, 0x5a, 0x7b, 0x7a⟩)) (·.result) = some 1 := by decide

/-- TF-13, ASCII_CASE (BIT5 would give 1). -/
theorem test_tag_is_safe_to_copy_ascii :
    after (exec .tagIsSafeToCopy (tagged ⟨0xff, 0xff, 0xff, 0xff⟩)) (·.result) = some 0 := by decide

/-- Section 2.2, TAG_EQ. -/
theorem test_tag_eq : after (exec .tagEq { tagged ruSt with tagIn := 0x52755374 }) (·.result) = some 1 := by decide

/-- Section 2.2, TAG_EQ: "RuSt" against "Rust". -/
theorem test_tag_eq_case : after (exec .tagEq { tagged ruSt with tagIn := 0x52757374 }) (·.result) = some 0 := by decide

/-- CRC-8. -/
theorem test_crc32_raw :
    after (exec .crc32Raw (loaded [0x52, 0x75, 0x53, 0x74, 0x68, 0x69] 6)) (·.result) = some 0xD2BC3F73 := by decide +kernel

/-- CRC-11. -/
theorem test_crc32_raw_range :
    after (exec .crc32Raw (loaded [] 65)) (fun s => (s.errCode, s.errInfo0)) = some (.srcRange, 65) := by decide

/-- CN-1, over an older, longer chunk. -/
theorem test_chunk_new :
    after (exec .chunkNew (((loaded [0x68, 0x69] 2).withChunk rust [1, 2, 3, 4]).withTag ruSt))
      (fun s => (s.chValid, s.chTag, s.chLen, s.payload)) =
      some (true, ruSt, 2, [0x68, 0x69]) := by decide

/-- CN-9: the slot is invalidated. -/
theorem test_chunk_new_range :
    after (exec .chunkNew ((chunked ruSt []).withTag ruSt |> fun s => { s with srcLen := 65 }))
      (fun s => (s.errCode, s.errInfo0, s.chValid)) = some (.srcRange, 65, false) := by decide

/-- CH-3: trailing data is ignored. -/
theorem test_chunk_parse :
    after (exec .chunkParse (loaded (w3 ++ [0xde, 0xad]) 16)) (fun s => (s.errCode, s.chTag, s.payload, s.result)) =
      some (.none, ruSt, [0x68, 0x69], 14) := by decide +kernel

/-- CH-13: expected (from IN) in ERR_INFO0, actual (computed) in ERR_INFO1. -/
theorem test_chunk_parse_crc :
    after (exec .chunkParse (loaded [0, 0, 0, 0, 0x49, 0x45, 0x4e, 0x44, 0, 0, 0, 0] 12))
      (fun s => (s.errCode, s.errInfo0, s.errInfo1)) = some (.chunkInvalidCrc, 0, 0xAE426082) := by decide +kernel

/-- CN-7. -/
theorem test_chunk_serialize :
    after (exec .chunkSerialize (chunked ⟨0x41, 0x42, 0x43, 0x44⟩ [])) (fun s => (s.outLen, s.outBuf.readBytes 0 12)) =
      some (12, some [0, 0, 0, 0, 0x41, 0x42, 0x43, 0x44, 0xdb, 0x17, 0x20, 0xa5]) := by decide +kernel

/-- CN-10. -/
theorem test_chunk_serialize_no_chunk :
    after (exec .chunkSerialize State.reset) (fun s => (s.errCode, s.outLen)) = some (.noChunk, 0) := by decide

/-- CN-3. -/
theorem test_chunk_length : after (exec .chunkLength (chunked ruSt [0x68, 0x69])) (·.result) = some 2 := by decide

/-- CN-6. -/
theorem test_chunk_type :
    after (exec .chunkType (chunked ruSt [0x68, 0x69])) (fun s => (s.result, s.tag, s.tagPresent)) =
      some (0x52755374, ruSt, true) := by decide

/-- CN-5. -/
theorem test_chunk_data :
    after (exec .chunkData (chunked ruSt [0x68, 0x69])) (fun s => (s.outLen, s.outBuf)) =
      some (2, [(0, 0x68), (1, 0x69)]) := by decide

/-- CN-4. -/
theorem test_chunk_crc : after (exec .chunkCrc (chunked ruSt [0x68, 0x69])) (·.result) = some 0xD2BC3F73 := by decide +kernel

/-! ## One step of the machine -/

/-- EN-7: ILLEGAL_CMD before every other check, with the word in ERR_INFO0. -/
theorem test_step_illegal :
    after (step (issued 0x01000021)) (fun s => (s.errCode, s.errInfo0, s.busy)) = some (.illegalCmd, 0x01000021, false) := by
  decide

/-- The first command after reset: TAG_IS_VALID with no tag (section 2.2, "No tag"). -/
theorem test_step_first_command : after (step (issued 0x04)) (fun s => (s.errCode, s.busy)) = some (.noTag, false) := by decide

/-- HI-11: CRC32_RAW over an IN byte never written. -/
theorem test_step_unwritten : faultOf (step { issued 0x10 with srcLen := 4 }) = some .uninitRead := by decide

/-- HI-9 and HI-10: the second line of each program, before the engine's step. -/
theorem test_step_hazards :
    faultOf (step { hosted [.wr .srcLen 0] [.host] with busy := true }) = some .hazard ∧
    faultOf (step { hosted [.cmd .nop] [.host] with busy := true }) = some .cmdWhileBusy := by decide

/-- R88: a poll of STATUS while busy sees bit 0, and `BIT1` then goes back to its label (the `WAIT` loop of R89). -/
theorem test_step_wait_loop :
    after (step { hosted [.rd .status] [.host] with busy := true }) (fun s => s.host.lastRead) = some 1 ∧
    after (step { hosted (waitLines 5) [.host] with host := { prog := waitLines 5, pc := 2, lastRead := 1 } })
      (fun s => s.host.pc) = some 0 := by decide

/-- R88: a `BIT1` on a bit that is 0 goes on to the next line, also where the program has no such label. -/
theorem test_step_bit_not_taken :
    after (step { hosted [.bit1 0 7] [.host] with host := { prog := [.bit1 0 7], pc := 0, lastRead := 2 } })
      (fun s => s.host.pc) = some 1 := by decide

/-- R231: RESET while a command is in flight. -/
theorem test_step_reset :
    after (step { issued 0x10 with turns := [.reset] }) (fun s => (s.busy, statusWord s, s.turns)) = some (false, 0, []) := by
  decide

/-! ## Host accesses (section 2.8) -/

/-- HI-1, HI-2, HI-8. -/
theorem test_access_reads :
    valueRead (hostAccess State.reset (regAccess 0x00 .read)) = some 0x504E4743 ∧
    valueRead (hostAccess State.reset (regAccess 0x28 .read)) = some 64 ∧
    valueRead (hostAccess State.reset (regAccess 0x2C .read)) = some 64 ∧
    valueRead (hostAccess State.reset (regAccess 0x30 .read)) = some 76 ∧
    valueRead (hostAccess State.reset (regAccess 0x34 .read)) = some 0 := by decide

/-- HI-3 to HI-6, and HI-12. -/
theorem test_access_faults :
    accessFault (hostAccess State.reset (regAccess 0x02 .read)) = some .busError ∧
    accessFault (hostAccess State.reset (regAccess 0x40 .read)) = some .busError ∧
    accessFault (hostAccess State.reset { space := .outBuf, offset := 0, width := 8, dir := .write 0 }) = some .busError ∧
    accessFault (hostAccess State.reset (inAccess 64 .read)) = some .busError ∧
    accessFault (hostAccess State.reset (outRead 0)) = some .staleRead := by decide

/-- P3: STATUS = 0x0000000A after a failed parse with a tag present. -/
theorem test_status_fields : statusWord ((tagged ruSt).withErr .chunkInvalidCrc 0 1) = 0x0000000A := by decide

/-- R70: the last byte of each space, and the first address past REG. -/
theorem test_locate :
    locate Config.vectors 0x3F = some (.reg, 0x3F) ∧ locate Config.vectors 0x40 = none ∧
    locate Config.vectors 0x103F = some (.inBuf, 0x3F) ∧ locate Config.vectors 0x204B = some (.outBuf, 0x4B) := by decide

/-! ## States and operands that meet the statements' hypotheses -/

/-- A well-formed state with everything in it: the tag "RuSt", the chunk ("RuSt", "hi"), its wire image in OUT and in IN. -/
def sample : State :=
  { (State.reset.withTag ruSt).withChunk ruSt [0x68, 0x69] with
    inBuf := Memory.writeBytes [] 0 w3, srcLen := 14, outBuf := Memory.writeBytes [] 0 w3, outLen := 14 }

theorem sample_inv : sample.Inv where
  cfg_wf := by decide
  in_wf := by decide
  in_bound := by decide
  out_wf := by decide
  out_bound := by decide
  out_len := by decide
  out_filled := by decide
  payload_size := by decide
  ch_len := by decide
  err_raised := by decide
  info0_zero := by decide
  info1_zero := by decide
  crc_differ := by decide

/-- The same with the command of a word in flight, and an agent to move. -/
def sampleBusy (w : Word) (turn : Turn) : State := { sample with busy := true, pending := w, turns := [turn] }

theorem sampleBusy_inv (w : Word) (turn : Turn) : (sampleBusy w turn).Inv where
  cfg_wf := sample_inv.cfg_wf
  in_wf := sample_inv.in_wf
  in_bound := sample_inv.in_bound
  out_wf := sample_inv.out_wf
  out_bound := sample_inv.out_bound
  out_len := sample_inv.out_len
  out_filled := sample_inv.out_filled
  payload_size := sample_inv.payload_size
  ch_len := sample_inv.ch_len
  err_raised := sample_inv.err_raised
  info0_zero := sample_inv.info0_zero
  info1_zero := sample_inv.info1_zero
  crc_differ := sample_inv.crc_differ

/-- An idle block whose host is to perform one line. -/
def sampleHost (line : HostLine) : State := { sample with host := HostAgent.start [line], turns := [.host] }

theorem witness_EveryOpcodeRowDecodes : decode 0x26 = .ok .chunkCrc := by decide

theorem witness_DecodeAndEncodeAgree : Instr.chunkCrc.wf = true ∧ decode 0x26 = .ok .chunkCrc := by decide

/-- Both kinds of illegal word, at the edges of the ranges. -/
theorem witness_IllegalWords :
    illegalWord 0x100 ∧ illegalWord 0x0A ∧ illegalWord 0x0F ∧ illegalWord 0x11 ∧ illegalWord 0x1F ∧ illegalWord 0x27 ∧
    illegalWord 0xFF :=
  ⟨.inl (by decide), .inr (.inl (by decide)), .inr (.inl (by decide)), .inr (.inr (.inl (by decide))),
    .inr (.inr (.inl (by decide))), .inr (.inr (.inr (by decide))), .inr (.inr (.inr (by decide)))⟩

theorem witness_IllegalWordCompletesWithIllegalCmd :
    illegalWord 0x27 ∧ State.reset.busy = false ∧ (issued 0x27).busy = true ∧ (issued 0x27).pending = 0x27 ∧
    (issued 0x27).turn = .engine :=
  ⟨witness_IllegalWords.2.2.2.2.2.1, by decide, by decide, by decide, by decide⟩

theorem witness_CmdWriteIssuesTheCommand : State.reset.busy = false ∧ (issued 0x20).busy = true := by decide

theorem witness_StepIsOneAgentsMove :
    (sampleBusy 0x26 .engine).turn = .engine ∧ (sampleBusy 0x26 .host).turn = .host ∧ (sampleBusy 0x26 .reset).turn = .reset ∧
    { sampleBusy 0x26 .host with turns := [] }.busy = true := by decide

theorem witness_EngineStepRunsTheDecodedCommand :
    (issued 0x26).turn = .engine ∧ (issued 0x26).busy = true ∧ decode (issued 0x26).pending = .ok .chunkCrc := by decide

theorem witness_EngineStepAlwaysCompletes : (issued 0x26).turn = .engine ∧ (issued 0x26).busy = true := by decide

/-- The fault clause, for each of the four commands that read IN. -/
theorem witness_CommandsNeverRefuse :
    faultOf (exec .tagFromText (loaded [] 4)) = some .uninitRead ∧ faultOf (exec .crc32Raw (loaded [] 1)) = some .uninitRead ∧
    faultOf (exec .chunkNew ((loaded [] 1).withTag ruSt)) = some .uninitRead ∧
    faultOf (exec .chunkParse (loaded [] 12)) = some .uninitRead := by decide

theorem witness_IdleEngineHasNoStep :
    { State.reset with turns := [.engine] }.turn = .engine ∧ State.reset.busy = false := by decide

theorem witness_PendingCommandEnds : (sampleBusy 0x26 .host).busy = true := rfl

/-- A step that leaves the command in flight (a STATUS poll), and the two that end it. -/
theorem witness_BlockStandsStillWhileBusy :
    (∃ t, step { sampleBusy 0x26 .host with host := HostAgent.start [.rd .status] } = .next t ∧ t.busy = true) ∧
    (∃ t, step (sampleBusy 0x23 .engine) = .next t ∧ (!t.busy) = true) ∧
    (∃ t, step (sampleBusy 0x23 .reset) = .next t ∧ (!t.busy) = true) :=
  ⟨next_and_of_after (p := (·.busy)) (by decide), next_and_of_after (p := fun t => !t.busy) (by decide),
    next_and_of_after (p := fun t => !t.busy) (by decide)⟩

theorem witness_NopClearsTheErrorReport :
    (0x100 : Word).extractLsb' 0 8 = 0 ∧ (0x100 : Word).extractLsb' 8 24 ≠ 0 ∧ (issued 0x100).busy = true ∧
    (issued 0x100).pending = 0x100 ∧ (issued 0x100).turn = .engine := by decide

theorem ruSt_valid : validTag ruSt := (isValid_iff _).1 (by decide)

/-- Lengths 3 and 5 (TT-3, TT-5); four letters, and three letters and a digit, written. -/
theorem witness_TagFromTextChecksLengthThenLetters :
    (loaded [] 3).srcLen.toNat ≠ 4 ∧ (loaded [] 5).srcLen.toNat ≠ 4 ∧
    ((loaded (four ruSt) 4).srcLen.toNat = 4 ∧ bytesAre (loaded (four ruSt) 4).inBuf 0 (four ruSt) ∧ allAlpha ruSt = true) ∧
    bytesAre (loaded [0x52, 0x75, 0x31, 0x74] 4).inBuf 0 (four ⟨0x52, 0x75, 0x31, 0x74⟩) ∧
    ¬ letter (0x31 : Byte) :=
  ⟨by decide, by decide, ⟨by decide, read4_iff.1 (by decide), by decide⟩, read4_iff.1 (by decide),
    fun h => absurd ((isAlpha_iff _).2 h) (by decide)⟩

/-- For TAG_BYTES, the five predicates, TAG_EQ and the four flags: a tag, no tag, and each property true and false. -/
theorem witness_TagStatements :
    (tagged ruSt).tagPresent = true ∧ State.reset.tagPresent = false ∧ validTag (tagged ruSt).tag ∧
    ¬ validTag (tagged rust).tag ∧ flagIsUpper Config.vectors 0x52 ∧ ¬ flagIsUpper Config.vectors 0x75 ∧
    flagIsLower Config.vectors 0x74 ∧ ¬ flagIsLower Config.vectors 0x54 ∧ letter 0x41 ∧ letter 0x7A ∧
    be32 (tagged ruSt).tag = (0x52755374 : Word).toNat :=
  ⟨by decide, by decide, ruSt_valid, fun h => absurd ((isValid_iff _).2 h) (by decide),
    (flagUpper_iff _ _).1 (by decide), fun h => absurd ((flagUpper_iff _ _).2 h) (by decide),
    (flagLower_iff _ _).1 (by decide), fun h => absurd ((flagLower_iff _ _).2 h) (by decide),
    (isAlpha_iff _).1 (by decide), (isAlpha_iff _).1 (by decide), by decide⟩

/-- SRC_LEN one above IN_SIZE; SRC_LEN = 0 (every byte of no bytes is written) and 14. -/
theorem witness_Crc32RawChecksumsTheOperand :
    (loaded [] 65).cfg.inSize < (loaded [] 65).srcLen.toNat ∧
    ((loaded [] 0).srcLen.toNat ≤ (loaded [] 0).cfg.inSize ∧ ([] : List Byte).length = (loaded [] 0).srcLen.toNat ∧
      bytesAre (loaded [] 0).inBuf 0 []) ∧
    (sample.srcLen.toNat ≤ sample.cfg.inSize ∧ w3.length = sample.srcLen.toNat ∧ bytesAre sample.inBuf 0 w3) :=
  ⟨by decide, ⟨by decide, by decide, bytesAre_of_readBytes 0 (by decide)⟩,
    ⟨by decide, by decide, bytesAre_of_readBytes 14 (by decide)⟩⟩

theorem witness_ChunkNewCopiesTagAndPayload :
    State.reset.tagPresent = false ∧
    ({ tagged ruSt with srcLen := 65 }.tagPresent = true ∧ { tagged ruSt with srcLen := 65 }.cfg.inSize < (65 : Word).toNat) ∧
    (sample.tagPresent = true ∧ sample.srcLen.toNat ≤ sample.cfg.inSize ∧ w3.length = sample.srcLen.toNat ∧
      bytesAre sample.inBuf 0 w3) :=
  ⟨by decide, ⟨by decide, by decide⟩, ⟨by decide, by decide, by decide, bytesAre_of_readBytes 14 (by decide)⟩⟩

/-- Each clause of CHUNK_PARSE: lengths 65, 11 and 14; an invalid tag (CH-6); N one above the bound (CH-7b, N = 3 and
SRC_LEN = 14); W3 with its checksum off by one (P3) and right (N at the bound). -/
theorem witness_ChunkParseChecksInStepOrder :
    (loaded [] 65).cfg.inSize < (loaded [] 65).srcLen.toNat ∧
    ((loaded [] 11).srcLen.toNat ≤ (loaded [] 11).cfg.inSize ∧ (loaded [] 11).srcLen.toNat < 12) ∧
    (sample.srcLen.toNat ≤ sample.cfg.inSize ∧ 12 ≤ sample.srcLen.toNat) ∧
    (bytesAre sample.inBuf 0 (four ⟨0, 0, 0, 2⟩) ∧ bytesAre sample.inBuf 4 (four ruSt) ∧ validTag ruSt ∧
      be32 ⟨0, 0, 0, 2⟩ ≤ sample.srcLen.toNat - 12 ∧ [0x68, 0x69].length = be32 ⟨0, 0, 0, 2⟩ ∧
      bytesAre sample.inBuf 8 [0x68, 0x69] ∧ bytesAre sample.inBuf (8 + be32 ⟨0, 0, 0, 2⟩) (four ⟨0xd2, 0xbc, 0x3f, 0x73⟩) ∧
      be32 ⟨0xd2, 0xbc, 0x3f, 0x73⟩ = (crc32 (four ruSt ++ [0x68, 0x69])).toNat ∧
      be32 ⟨0xd2, 0xbc, 0x3f, 0x72⟩ ≠ (crc32 (four ruSt ++ [0x68, 0x69])).toNat) ∧
    (¬ validTag rust ∧ sample.srcLen.toNat - 12 < be32 ⟨0, 0, 0, 3⟩) :=
  ⟨by decide, ⟨by decide, by decide⟩, ⟨by decide, by decide⟩,
    ⟨read4_iff.1 (by decide), read4_iff.1 (by decide), ruSt_valid, by decide, by decide,
      bytesAre_of_readBytes 2 (by decide), read4_iff.1 (by decide), by decide +kernel, by decide +kernel⟩,
    ⟨fun h => absurd ((isValid_iff _).2 h) (by decide), by decide⟩⟩

/-- Those bytes in IN: the invalid tag, N out of bounds, the wrong checksum. -/
theorem witness_ChunkParseFailingImages :
    bytesAre (loaded [0, 0, 0, 2, 0x52, 0x75, 0x73, 0x74] 14).inBuf 4 (four rust) ∧
    bytesAre (loaded [0, 0, 0, 3, 0x52, 0x75, 0x53, 0x74] 14).inBuf 0 (four ⟨0, 0, 0, 3⟩) ∧
    bytesAre (loaded (w3.take 13 ++ [0x72]) 14).inBuf 10 (four ⟨0xd2, 0xbc, 0x3f, 0x72⟩) :=
  ⟨read4_iff.1 (by decide), read4_iff.1 (by decide), read4_iff.1 (by decide)⟩

/-- The sample with one byte written after its image, SRC_LEN from exactly 12+N to IN_SIZE; and its parse succeeds. -/
theorem witness_TrailingDataIsNotRead :
    bytesAre sample.inBuf 0 (four ⟨0, 0, 0, 2⟩) ∧ 12 + be32 ⟨0, 0, 0, 2⟩ = sample.srcLen.toNat ∧
    sample.srcLen.toNat ≤ sample.cfg.inSize ∧ 12 + be32 ⟨0, 0, 0, 2⟩ ≤ (64 : Word).toNat ∧
    (64 : Word).toNat ≤ sample.cfg.inSize ∧
    ∀ a, a < 12 + be32 ⟨0, 0, 0, 2⟩ → (sample.inBuf.write 14 0xde).read a = sample.inBuf.read a :=
  ⟨read4_iff.1 (by decide), by decide, by decide, by decide, by decide,
    fun _ h => Memory.read_write_other (Nat.ne_of_lt h)⟩

theorem witness_SuccessfulParse :
    ∃ t, exec .chunkParse sample = .next t ∧ decide (t.errCode = .none ∧ t.chLen = 2) = true :=
  next_and_of_after (by decide +kernel)

/-- For the serializer, the chunk accessors and the round trip: a valid chunk that fits IN, and no chunk. -/
theorem witness_ChunkStatements :
    sample.Inv ∧ sample.chValid = true ∧ validTag sample.chTag ∧ 12 + sample.chLen ≤ sample.cfg.inSize ∧
    State.reset.chValid = false :=
  ⟨sample_inv, by decide, ruSt_valid, by decide, by decide⟩

/-- The premise of the round trip on the copied bytes: the sample's IN already holds the image its chunk serializes to. -/
theorem witness_SerializeThenParseRoundTrips :
    ∃ t, exec .chunkSerialize sample = .next t ∧
      decide (∀ a, a < t.outLen.toNat → sample.inBuf.read a = t.outBuf.read a) = true :=
  next_and_of_after (by decide +kernel)

/-- An unwritten byte for each clause, at the last byte the command reads. -/
theorem witness_UnwrittenOperandByteFaults :
    ((loaded [0x52, 0x75, 0x53] 4).srcLen.toNat = 4 ∧ unwritten (loaded [0x52, 0x75, 0x53] 4).inBuf 0 4) ∧
    ((tagged ruSt).tagPresent = true ∧ (64 : Word).toNat ≤ Config.vectors.inSize ∧ unwritten (loaded w3 64).inBuf 0 64) ∧
    (12 ≤ (loaded [] 12).srcLen.toNat ∧ unwritten (loaded (w3.take 7) 12).inBuf 0 8) ∧
    (bytesAre (loaded (w3.take 13) 14).inBuf 0 (four ⟨0, 0, 0, 2⟩) ∧ bytesAre (loaded (w3.take 13) 14).inBuf 4 (four ruSt) ∧
      validTag ruSt ∧ be32 ⟨0, 0, 0, 2⟩ ≤ (loaded (w3.take 13) 14).srcLen.toNat - 12 ∧
      unwritten (loaded (w3.take 13) 14).inBuf 8 (be32 ⟨0, 0, 0, 2⟩ + 4)) :=
  ⟨⟨by decide, read4_none_iff.1 (by decide)⟩, ⟨by decide, by decide, readBytes_none_iff.1 (by decide)⟩,
    ⟨by decide, readBytes_none_iff.1 (by decide)⟩,
    ⟨read4_iff.1 (by decide), read4_iff.1 (by decide), ruSt_valid, by decide, readBytes_none_iff.1 (by decide)⟩⟩

theorem witness_ChangingOneByteChangesTheChecksum : (0x54 : Byte) ≠ 0x55 := by decide

/-- For the frames: every command ends in a next state from the sample. -/
theorem witness_Frames :
    ∀ i ∈ [Instr.nop, .tagFromBytes, .tagFromText, .tagBytes, .tagIsValid, .tagIsCritical, .tagIsPublic,
      .tagIsReservedBitValid, .tagIsSafeToCopy, .tagEq, .crc32Raw, .chunkNew, .chunkParse, .chunkSerialize, .chunkLength,
      .chunkType, .chunkData, .chunkCrc], goesOn (exec i sample) = true := by decide +kernel

/-- An error for each kind a command raises, and what it records. -/
theorem witness_Errors :
    after (exec .tagFromText (loaded [] 3)) (·.errCode) = some .tagLength ∧
    after (exec .tagFromText (loaded [0x52, 0x75, 0x31, 0x74] 4)) (·.errCode) = some .tagInvalidCharacter ∧
    after (exec .chunkParse (loaded [] 11)) (·.errCode) = some .chunkInputTooSmall ∧
    after (exec .chunkParse (loaded [0, 0, 0, 2, 0x52, 0x75, 0x73, 0x74] 14)) (·.errCode) = some .chunkInvalidTagType ∧
    after (exec .chunkParse (loaded [0, 0, 0, 3, 0x52, 0x75, 0x53, 0x74] 14)) (·.errCode) = some .chunkBounds ∧
    after (exec .chunkParse (loaded (w3.take 13 ++ [0x72]) 14)) (·.errCode) = some .chunkInvalidCrc ∧
    after (exec .tagEq State.reset) (·.errCode) = some .noTag ∧
    after (exec .chunkCrc State.reset) (·.errCode) = some .noChunk ∧
    after (exec .crc32Raw (loaded [] 65)) (·.errCode) = some .srcRange := by decide +kernel

/-- A success, and an engine's step while busy. -/
theorem witness_ErrorsArePrecise :
    after (exec .chunkLength sample) (·.errCode) = some .none ∧ goesOn (step (sampleBusy 0x100 .engine)) = true ∧
    (sampleBusy 0x100 .engine).turn = .engine ∧ (sampleBusy 0x100 .engine).busy = true := by decide

/-- The accesses the busy rules are about, none a bus error. -/
theorem witness_OnlyStatusAndIdAreReadableWhileBusy :
    (issued 0).busy = true ∧
    ∀ a ∈ [regAccess 0x00 .read, regAccess 0x08 .read, regAccess 0x04 (.write 0), regAccess 0x04 .read, regAccess 0x3C .read,
      inAccess 63 .read, outRead 75], busError (issued 0).cfg a = false := by decide

/-- A read, a CMD write, and a write that is not one. -/
theorem witness_OnlyCmdWritesHaveASideEffect :
    (∃ p, hostAccess sample (outRead 13) = .ok p) ∧ (∃ p, hostAccess sample (regAccess 0x04 (.write 0x26)) = .ok p) ∧
    (∃ p, hostAccess sample (inAccess 63 (.write 0x41)) = .ok p) :=
  ⟨⟨_, rfl⟩, ⟨_, rfl⟩, ⟨_, rfl⟩⟩

/-- A block that is idle, and one for each error kind of ERR_CODE. -/
theorem witness_RegisterStatements :
    sample.busy = false ∧ ∀ e ∈ [ErrCode.none, .tagLength, .tagInvalidCharacter, .chunkInputTooSmall, .chunkInvalidTagType,
      .chunkBounds, .chunkInvalidCrc, .payloadNotUtf8, .illegalCmd, .noTag, .noChunk, .srcRange],
      { State.reset with errCode := e }.busy = false ∧ { State.reset with errCode := e }.errCode = e := by decide

/-- The last byte of IN, written and not. -/
theorem witness_InBytesReadAsWritten :
    sample.busy = false ∧ 63 < sample.cfg.inSize ∧ sample.inBuf.read 13 = some 0x73 ∧ sample.inBuf.read 63 = none := by decide

/-- The two sides of OUT_LEN, and the last byte of OUT. -/
theorem witness_OutReadsOnlyBelowOutLen :
    sample.Inv ∧ sample.busy = false ∧ 13 < sample.outLen.toNat ∧ sample.outLen.toNat ≤ 14 ∧ 75 < sample.cfg.outSize :=
  ⟨sample_inv, by decide, by decide, by decide, by decide⟩

theorem witness_HostCannotWriteResultsOrSlots :
    (sampleHost (.cmd .chunkCrc)).turn = .host ∧ goesOn (step (sampleHost (.cmd .chunkCrc))) = true := by decide

/-- A transaction that faults, one that reads, a branch taken on bit 31, a label, a branch not taken, and an address outside
the block. -/
theorem witness_EachHostLineIsItsTransaction :
    ((sampleHost (.rdbIn 64)).turn = .host ∧ (sampleHost (.rdbIn 64)).host.prog[0]? = some (.rdbIn 64) ∧
      transactionOf sample.cfg (.rdbIn 64) = some (inAccess 64 .read) ∧
      accessFault (hostAccess (sampleHost (.rdbIn 64)) (inAccess 64 .read)) = some .busError) ∧
    (transactionOf sample.cfg (.bus 0x200D 8 .read) = some (outRead 13) ∧
      valueRead (hostAccess (sampleHost (.bus 0x200D 8 .read)) (outRead 13)) = some 0x73) ∧
    (findLabel [.label 3, .bit1 31 3] 3 = some 0 ∧ (0x80000000 : Word).getLsbD 31 = true) ∧
    (sampleHost (.label 3)).host.prog[0]? = some (.label 3) ∧
    ((sampleHost (.bit1 31 3)).host.prog[0]? = some (.bit1 31 3) ∧ (sampleHost (.bit1 31 3)).host.lastRead.getLsbD 31 = false) ∧
    locate sample.cfg 0x40 = none := by decide

/-- The edges of the three windows. -/
theorem witness_SpacesLieAtTheirBases :
    Config.vectors.wf = true ∧ 63 < 0x40 ∧ 63 < Config.vectors.inSize ∧ 75 < Config.vectors.outSize := by decide

theorem witness_ResetClearsTheBlock : ∃ t, t = (sampleBusy 0x26 .host).applyReset ∧ (sampleBusy 0x26 .host).busy = true :=
  ⟨_, rfl, by decide⟩

/-- A step of each agent from a state with the invariant. -/
theorem witness_StepKeepsTheInvariant :
    (sampleBusy 0x22 .engine).Inv ∧ (∃ t, step (sampleBusy 0x22 .engine) = .next t) ∧
    (sampleBusy 0x22 .reset).Inv ∧ (∃ t, step (sampleBusy 0x22 .reset) = .next t) ∧
    (sampleBusy 0x22 .host).Inv ∧ (∃ t, step (sampleBusy 0x22 .host) = .next t) :=
  ⟨sampleBusy_inv _ _, next_of_goesOn (by decide +kernel), sampleBusy_inv _ _, next_of_goesOn (by decide),
    sampleBusy_inv _ _, next_of_goesOn (by decide)⟩

/-- The reset state with other bytes in the absent tag and the invalid chunk, another old PENDING, and a stale byte in OUT. -/
def twin : State :=
  { State.reset with tag := ruSt, chTag := rust, chLen := 64, pending := 5, outBuf := [(75, 0xFF)] }

theorem twin_same : SameToHost State.reset twin where
  cfg := rfl
  busy := rfl
  pending := fun h => by cases h
  errCode := rfl
  errInfo0 := rfl
  errInfo1 := rfl
  result := rfl
  tagIn := rfl
  srcLen := rfl
  outLen := rfl
  tagPresent := rfl
  tag := fun h => by cases h
  chValid := rfl
  chTag := fun h => by cases h
  chLen := fun h => by cases h
  payload := fun h => by cases h
  inBuf := fun _ => rfl
  outBuf := fun a h => absurd h (Nat.not_lt_zero a)
  host := rfl
  turns := rfl

/-- Two different well-formed states the host cannot tell apart. -/
theorem witness_UnobservableStateNeverShows :
    State.reset.Inv ∧ twin.Inv ∧ SameToHost State.reset twin ∧ twin ≠ State.reset := by
  refine ⟨?_, ?_, twin_same, by decide⟩ <;> constructor <;> decide

end Sys2Proof.Tests
end

section
/-! PROOFS. The parameters (00_scope.md R10, R32) and the host's program: what each agent's turn keeps of them. -/

namespace Sys2Proof.Machine

variable {s t u : State} {i : Instr} {e : ErrCode} {i0 i1 : Word}

/-- No command writes the parameters or the host: the writes of its effects are the block's own. -/
theorem Effect.keeps_cfg_host (h : Effect s i u e i0 i1) : u.cfg = s.cfg ∧ u.host = s.host := by
  cases h <;> exact ⟨rfl, rfl⟩

theorem engineTurn_keeps_cfg_host (h : engineTurn s = .next t) : t.cfg = s.cfg ∧ t.host = s.host := by
  rcases engineTurn_next h with ⟨-, rfl⟩ | ⟨-, -, rfl⟩ | ⟨-, i, u, -, hexec, rfl⟩
  · exact ⟨rfl, rfl⟩
  · exact ⟨rfl, rfl⟩
  · obtain ⟨v, e, i0, i1, heffect, rfl⟩ := exec_next hexec
    exact heffect.keeps_cfg_host

/-- The host's turn moves the host in its program, and does not rewrite it. -/
theorem hostTurn_keeps_cfg_prog (h : hostTurn s = .next t) : t.cfg = s.cfg ∧ t.host.prog = s.host.prog := by
  rcases hostTurn_next h with rfl | ⟨k, rfl⟩ | ⟨a, u, v, haccess, rfl⟩
  · exact ⟨rfl, rfl⟩
  · exact ⟨rfl, rfl⟩
  · obtain ⟨-, hcfg, hhost⟩ := hostAccess_keeps haccess
    exact ⟨hcfg, by simp [hhost]⟩

/-- Settles O59, agent by agent: the engine's turn, the host's turn, RESET. -/
theorem parametersNeverChange : Obligations.ParametersNeverChange := by
  intro s t h
  rcases step_cases s with hturn | hturn | hturn <;> rw [hturn] at h
  · obtain ⟨hcfg, hhost⟩ := engineTurn_keeps_cfg_host h
    exact ⟨hcfg, by simp [hhost]⟩
  · simpa using hostTurn_keeps_cfg_prog h
  · injection h with h
    subst h
    exact ⟨rfl, rfl⟩

end Sys2Proof.Machine
end

section
/-! PROOFS. The invariant (10_state.md R31, R36, R39, R40, 60_exceptions.md R201, R205): each update of the state keeps
it, so every command, every host access and RESET do. -/

namespace Sys2Proof.Machine

variable {s t u : State} {i : Instr} {e : ErrCode} {i0 i1 : Word}

/-- Two strings stored one after the other are their concatenation stored. -/
theorem Memory.writeBytes_append (m : Memory) (a : Nat) (xs ys : List Byte) :
    (m.writeBytes a xs).writeBytes (a + xs.length) ys = m.writeBytes a (xs ++ ys) := by
  induction xs generalizing m a with
  | nil => rfl
  | cons x xs ih =>
    have htail := ih (m.write a x) (a + 1)
    rwa [add_assoc, add_comm 1] at htail

@[simp] theorem Bytes4.toList_length (b : Bytes4) : b.toList.length = 4 := rfl

@[simp] theorem wire_length (t : Tag) (p : List Byte) : (wire t p).length = 12 + p.length := by
  simp only [wire, List.length_append, Bytes4.toList_length]
  omega

/-- For a payload of CH_LEN bytes the four stores of R165 are one store of the wire image. -/
theorem serializeTo_eq_writeBytes_wire (m : Memory) (t : Tag) (p : List Byte) :
    serializeTo m p.length t p = m.writeBytes 0 (wire t p) := by
  simp only [serializeTo, wire, ← Memory.writeBytes_append, List.length_append, Bytes4.toList_length, zero_add]

/-- R10's constraints on the sizes, as inequalities. -/
theorem Config.sizes_of_wf {c : Config} (h : c.wf = true) :
    c.inSize ≤ c.payloadSize ∧ c.payloadSize + 12 ≤ c.outSize ∧ c.outSize < 2 ^ 32 := by
  simp only [Config.wf, Config.sizesOk, Bool.and_eq_true, decide_eq_true_eq] at h
  omega

theorem lengthWord_toNat {n : Nat} (h : n < 2 ^ 32) : (lengthWord n).toNat = n := by
  simpa [lengthWord] using h

/-- The clauses of the invariant that speak of the error report alone (R145, R201, R205). -/
structure ReportOk (e : ErrCode) (i0 i1 : Word) : Prop where
  err_raised : e ≠ .payloadNotUtf8
  info0_zero : e.carriesInfo0 = false → i0 = 0
  info1_zero : e ≠ .chunkInvalidCrc → i1 = 0
  crc_differ : e = .chunkInvalidCrc → i0 ≠ i1

/-- A report with no second value, of a code other than the two that forbid it. -/
theorem ReportOk.of_info0 (hu : e ≠ .payloadNotUtf8) (hc : e ≠ .chunkInvalidCrc)
    (h0 : e.carriesInfo0 = false → i0 = 0) : ReportOk e i0 0 where
  err_raised := hu
  info0_zero := h0
  info1_zero _ := rfl
  crc_differ h := absurd h hc

theorem reportOk_chunkInvalidCrc (h : i0 ≠ i1) : ReportOk .chunkInvalidCrc i0 i1 where
  err_raised := by decide
  info0_zero := by simp [ErrCode.carriesInfo0]
  info1_zero h := absurd rfl h
  crc_differ _ := h

/-- Every command reports as R200, R201 and R205 say. -/
theorem Effect.reportOk (h : Effect s i u e i0 i1) : ReportOk e i0 i1 := by
  cases h with
  | parseCrc h hs hd ht hv hn hp hc hne => exact reportOk_chunkInvalidCrc hne
  | _ => exact .of_info0 (by decide) (by decide) (by simp [ErrCode.carriesInfo0])

namespace State.Inv

theorem payload_length (h : s.Inv) : s.payload.length = s.chLen := by
  rw [Machine.payload_length, h.payload_size, Nat.min_eq_left h.ch_len]

theorem withErr (h : s.Inv) (hr : ReportOk e i0 i1) : (s.withErr e i0 i1).Inv :=
  { h with
    err_raised := hr.err_raised
    info0_zero := hr.info0_zero
    info1_zero := hr.info1_zero
    crc_differ := hr.crc_differ }

theorem withResult (h : s.Inv) (w : Word) : (s.withResult w).Inv := { h with }

theorem withTag (h : s.Inv) (t : Tag) : (s.withTag t).Inv := { h with }

theorem dropTag (h : s.Inv) : s.dropTag.Inv := { h with }

theorem dropChunk (h : s.Inv) : s.dropChunk.Inv := { h with }

theorem issue (h : s.Inv) (w : Word) : (s.issue w).Inv := { h with }

theorem idle (h : s.Inv) : s.idle.Inv := { h with }

theorem popTurn (h : s.Inv) : s.popTurn.Inv := { h with }

theorem hostAt (h : s.Inv) (k : Nat) (v : Option Word) : (s.hostAt k v).Inv := { h with }

theorem withChunk (h : s.Inv) (t : Tag) {p : List Byte} (hp : p.length ≤ s.cfg.payloadSize) : (s.withChunk t p).Inv :=
  { h with
    payload_size := by
      have := h.payload_size
      simp only [State.withChunk_chPayload, State.withChunk_cfg, List.length_append, List.length_drop]
      omega
    ch_len := hp }

/-- A string stored from the start of OUT, with its length in OUT_LEN, as CHUNK_SERIALIZE and CHUNK_DATA do. -/
theorem withOut_writeBytes (h : s.Inv) {bs : List Byte} (hn : bs.length ≤ s.cfg.outSize) :
    (s.withOut (s.outBuf.writeBytes 0 bs) bs.length).Inv := by
  obtain ⟨-, -, hout⟩ := Config.sizes_of_wf h.cfg_wf
  have hlen : (lengthWord bs.length).toNat = bs.length := lengthWord_toNat (by omega)
  exact { h with
    out_wf := Memory.writeBytes_wf h.out_wf 0 bs
    out_bound := Memory.writeBytes_bound h.out_bound (by simpa using hn)
    out_len := by simpa only [State.withOut_outLen, hlen, State.withOut_cfg] using hn
    out_filled := fun a ha => by
      rw [State.withOut_outLen, hlen] at ha
      have hread := Memory.read_writeBytes (m := s.outBuf) (a := 0) ha
      rw [zero_add, List.getElem?_eq_getElem ha] at hread
      simp [hread] }

/-- A byte written to IN below IN_SIZE. -/
theorem writeIn (h : s.Inv) {a : Nat} (ha : a < s.cfg.inSize) (b : Byte) :
    ({ s with inBuf := s.inBuf.write a b } : State).Inv :=
  { h with
    in_wf := Memory.write_wf h.in_wf a b
    in_bound := Memory.write_bound h.in_bound ha }

theorem writeOffset (h : s.Inv) (off : Nat) (w : Word) : (writeOffset s off w).Inv := by
  rcases writeOffset_cases s off w with e | e | e | e <;> rw [e]
  · exact h
  · exact h.issue w
  · exact { h with }
  · exact { h with }

theorem hostAccess (h : s.Inv) {a : Access} {v : Option Word} (ha : hostAccess s a = .ok (t, v)) : t.Inv := by
  rcases hostAccess_ok ha with rfl | ⟨w, -, rfl⟩ | ⟨b, -, hoff, rfl⟩
  · exact h
  · exact h.writeOffset a.offset w
  · exact h.writeIn hoff b

theorem hostTurn (h : s.Inv) (ht : hostTurn s = .next t) : t.Inv := by
  rcases hostTurn_next ht with rfl | ⟨k, rfl⟩ | ⟨a, u, v, hu, rfl⟩
  · exact h
  · exact h.hostAt k none
  · exact (h.hostAccess hu).hostAt _ v

/-- The writes of every command keep the invariant; a payload fits because IN_SIZE is at most PAYLOAD_SIZE, and the wire
image because OUT_SIZE is at least PAYLOAD_SIZE + 12 (R10). -/
theorem effect (h : s.Inv) (he : Effect s i u e i0 i1) : u.Inv := by
  obtain ⟨hin, hout, -⟩ := Config.sizes_of_wf h.cfg_wf
  have hlen := h.payload_length
  have hch := h.ch_len
  cases he with
  | nop | noTag | crcRange | noChunk => exact h
  | tagFromBytes | textTag => exact h.withTag _
  | textLength | textCharacter => exact h.dropTag
  | tagBytes | tagIsValid | tagIsCritical | tagIsPublic | tagIsReservedBitValid | tagIsSafeToCopy | tagEq | crc32Raw
  | chunkLength | chunkCrc => exact h.withResult _
  | newNoTag | newRange | parseRange | parseSmall | parseTag | parseBounds | parseCrc => exact h.dropChunk
  | chunkNew ht hs hr =>
    have hp := Memory.readBytes_length hr
    exact h.withChunk _ (by omega)
  | chunkParse hL hs hd ht hv hn hp hc he =>
    have hp := Memory.readBytes_length hp
    exact (h.withChunk _ (by omega)).withResult _
  | chunkType => exact (h.withTag _).withResult _
  | chunkSerialize =>
    have hwire := h.withOut_writeBytes (bs := wire s.chTag s.payload) (by rw [wire_length]; omega)
    rwa [wire_length, ← serializeTo_eq_writeBytes_wire, hlen] at hwire
  | chunkData =>
    have hdata := h.withOut_writeBytes (bs := s.payload) (by omega)
    rwa [hlen] at hdata

theorem exec (h : s.Inv) (ht : exec i s = .next t) : t.Inv := by
  obtain ⟨u, e, i0, i1, heffect, rfl⟩ := exec_next ht
  exact (h.effect heffect).withErr heffect.reportOk

theorem engineTurn (h : s.Inv) (ht : engineTurn s = .next t) : t.Inv := by
  rcases engineTurn_next ht with ⟨-, rfl⟩ | ⟨-, -, rfl⟩ | ⟨-, i, u, -, hexec, rfl⟩
  · exact h
  · exact (h.withErr (.of_info0 (by decide) (by decide) (by simp [ErrCode.carriesInfo0]))).idle
  · exact (h.exec hexec).idle

theorem applyReset (h : s.Inv) : s.applyReset.Inv where
  cfg_wf := h.cfg_wf
  in_wf := List.Pairwise.nil
  in_bound := by simp
  out_wf := List.Pairwise.nil
  out_bound := by simp
  out_len := by simp
  out_filled := by simp
  payload_size := by simp
  ch_len := by simp
  err_raised := by simp
  info0_zero := by simp
  info1_zero := by simp
  crc_differ := by simp

end State.Inv

/-- Settles O58, agent by agent: the engine's turn, the host's turn, RESET. -/
theorem stepKeepsTheInvariant : Obligations.StepKeepsTheInvariant := by
  intro s t hs h
  rcases step_cases s with hturn | hturn | hturn <;> rw [hturn] at h
  · exact hs.popTurn.engineTurn h
  · exact hs.popTurn.hostTurn h
  · injection h with h
    exact h ▸ hs.popTurn.applyReset

end Sys2Proof.Machine
end

section
/-! PROOFS. What the host cannot observe (10_state.md R35, R36, R38, R40): each update, each shared operation of the
commands and each access takes two states the host cannot tell apart to two such states. -/

namespace Sys2Proof.Machine

variable {m m' : Memory}

theorem Memory.read_write (m : Memory) (a : Nat) (b : Byte) (x : Nat) :
    (m.write a b).read x = if x = a then some b else m.read x := by
  split
  · subst_vars; exact Memory.read_write_same m _ b
  · exact Memory.read_write_other ‹_›

theorem Memory.readBytes_congr (h : ∀ a, m'.read a = m.read a) (a n : Nat) : m'.readBytes a n = m.readBytes a n := by
  induction n generalizing a with
  | zero => rfl
  | succ n ih => simp only [Memory.readBytes, h, ih]

theorem Memory.read4_congr (h : ∀ a, m'.read a = m.read a) (a : Nat) : m'.read4 a = m.read4 a := by
  simp only [Memory.read4, h]

/-- The bytes of a string just stored do not depend on the memory it was stored in. -/
theorem Memory.read_writeBytes_zero_congr (m m' : Memory) {bs : List Byte} {a : Nat} (h : a < bs.length) :
    (m'.writeBytes 0 bs).read a = (m.writeBytes 0 bs).read a := by
  have hread (m : Memory) := Memory.read_writeBytes (m := m) (a := 0) h
  simp only [zero_add] at hread
  rw [hread, hread]

end Sys2Proof.Machine

namespace Sys2Proof.Stated

open Sys2Proof.Machine

variable {s t : State}

namespace SameToHost

theorem turn_eq (h : SameToHost s t) : t.turn = s.turn := by simp only [State.turn, h.turns, h.busy]

/-- The payload of a chunk that is there is observable. -/
theorem payload_eq (h : SameToHost s t) (hv : s.chValid = true) : t.payload = s.payload := h.payload hv

theorem withErr (h : SameToHost s t) (e : ErrCode) (i0 i1 : Word) :
    SameToHost (s.withErr e i0 i1) (t.withErr e i0 i1) :=
  { h with errCode := rfl, errInfo0 := rfl, errInfo1 := rfl }

theorem withResult (h : SameToHost s t) (w : Word) : SameToHost (s.withResult w) (t.withResult w) :=
  { h with result := rfl }

theorem withTag (h : SameToHost s t) (x : Tag) : SameToHost (s.withTag x) (t.withTag x) :=
  { h with tagPresent := rfl, tag := fun _ => rfl }

theorem dropTag (h : SameToHost s t) : SameToHost s.dropTag t.dropTag :=
  { h with tagPresent := rfl, tag := nofun }

/-- A new chunk is observable as a whole: the bytes of CH_PAYLOAD beyond it stay unobservable. -/
theorem withChunk (h : SameToHost s t) (x : Tag) (p : List Byte) : SameToHost (s.withChunk x p) (t.withChunk x p) :=
  { h with
    chValid := rfl
    chTag := fun _ => rfl
    chLen := fun _ => rfl
    payload := fun _ => by simp }

theorem dropChunk (h : SameToHost s t) : SameToHost s.dropChunk t.dropChunk :=
  { h with chValid := rfl, chTag := nofun, chLen := nofun, payload := nofun }

/-- OUT after a command that stores n bytes from its start, the same in both states. -/
theorem withOut (h : SameToHost s t) {m m' : Memory} {n : Nat} (hm : ∀ a, a < n → m'.read a = m.read a) :
    SameToHost (s.withOut m n) (t.withOut m' n) :=
  { h with
    outLen := rfl
    outBuf := fun a ha => hm a (lt_of_lt_of_le ha (by simpa [lengthWord] using Nat.mod_le n _)) }

theorem issue (h : SameToHost s t) (w : Word) : SameToHost (s.issue w) (t.issue w) :=
  { h with busy := rfl, pending := fun _ => rfl }

theorem idle (h : SameToHost s t) : SameToHost s.idle t.idle := { h with busy := rfl, pending := nofun }

theorem popTurn (h : SameToHost s t) : SameToHost s.popTurn t.popTurn :=
  { h with turns := by simp only [State.popTurn_turns, h.turns] }

theorem hostAt (h : SameToHost s t) (k : Nat) (v : Option Word) : SameToHost (s.hostAt k v) (t.hostAt k v) :=
  { h with host := by simp only [State.hostAt_host, h.host] }

theorem writeIn (h : SameToHost s t) (a : Nat) (b : Byte) :
    SameToHost { s with inBuf := s.inBuf.write a b } { t with inBuf := t.inBuf.write a b } :=
  { h with inBuf := fun x => by simp only [Memory.read_write, h.inBuf] }

theorem writeReg (h : SameToHost s t) (r : RegName) (w : Word) : SameToHost (writeReg s r w) (writeReg t r w) := by
  cases r with
  | cmd => exact h.issue w
  | tagIn => exact { h with tagIn := rfl }
  | srcLen => exact { h with srcLen := rfl }
  | _ => exact h

theorem writeOffset (h : SameToHost s t) (off : Nat) (w : Word) :
    SameToHost (writeOffset s off w) (writeOffset t off w) := by
  unfold Machine.writeOffset
  cases regAt off with
  | none => exact h
  | some r => exact h.writeReg r w

theorem statusWord_eq (h : SameToHost s t) : statusWord t = statusWord s := by
  simp only [statusWord, State.err, h.busy, h.errCode, h.chValid, h.tagPresent]

theorem readReg_eq (h : SameToHost s t) (r : RegName) : readReg t r = readReg s r := by
  cases r <;> simp only [readReg, h.statusWord_eq, h.errCode, h.errInfo0, h.errInfo1, h.result, h.tagIn, h.srcLen,
    h.outLen, h.cfg]

theorem readOffset_eq (h : SameToHost s t) (off : Nat) : readOffset t off = readOffset s off := by
  simp only [readOffset, h.readReg_eq]

/-- RESET leaves nothing of the block but its parameters. -/
theorem applyReset (h : SameToHost s t) : SameToHost s.applyReset t.applyReset := by
  have hreset : t.applyReset = s.applyReset := by simp only [State.applyReset, h.cfg, h.host, h.turns]
  rw [hreset]
  constructor <;> intros <;> rfl

end SameToHost

/-! The shared operations of the commands. -/

theorem sameOutcome_complete (h : SameToHost s t) : sameOutcome (complete s) (complete t) := h.withErr _ _ _

theorem sameOutcome_raise (h : SameToHost s t) (e : ErrCode) (i0 i1 : Word) :
    sameOutcome (raise e i0 i1 s) (raise e i0 i1 t) := h.withErr _ _ _

/-- Only a tag that is present is read. -/
theorem sameOutcome_needTag (h : SameToHost s t) {k k' : Tag → Outcome} (hk : ∀ x, sameOutcome (k x) (k' x)) :
    sameOutcome (needTag s k) (needTag t k') := by
  cases hp : s.tagPresent with
  | true =>
    rw [needTag_of_present hp, needTag_of_present (h.tagPresent.trans hp), h.tag hp]
    exact hk s.tag
  | false =>
    rw [needTag_of_absent hp, needTag_of_absent (h.tagPresent.trans hp)]
    exact h.withErr _ _ _

theorem sameOutcome_tagPredicate (h : SameToHost s t) (p : Tag → Bool) :
    sameOutcome (tagPredicate p s) (tagPredicate p t) :=
  sameOutcome_needTag h fun _ => sameOutcome_complete (h.withResult _)

/-- Only a chunk that is there is read, and of it only the payload. -/
theorem sameOutcome_needChunk (h : SameToHost s t) {k k' : Tag → List Byte → Outcome}
    (hk : s.chValid = true → sameOutcome (k s.chTag s.payload) (k' s.chTag s.payload)) :
    sameOutcome (needChunk s k) (needChunk t k') := by
  cases hv : s.chValid with
  | true =>
    rw [needChunk_of_valid hv, needChunk_of_valid (h.chValid.trans hv), h.chTag hv, h.payload_eq hv]
    exact hk hv
  | false =>
    rw [needChunk_of_invalid hv, needChunk_of_invalid (h.chValid.trans hv)]
    exact h.withErr _ _ _

theorem sameOutcome_withIn (h : SameToHost s t) (a n : Nat) {k k' : List Byte → Outcome}
    (hk : ∀ bs, sameOutcome (k bs) (k' bs)) : sameOutcome (withIn s a n k) (withIn t a n k') := by
  unfold withIn
  rw [Memory.readBytes_congr h.inBuf]
  cases s.inBuf.readBytes a n with
  | none => exact rfl
  | some bs => exact hk bs

theorem sameOutcome_withIn4 (h : SameToHost s t) (a : Nat) {k k' : Bytes4 → Outcome}
    (hk : ∀ b, sameOutcome (k b) (k' b)) : sameOutcome (withIn4 s a k) (withIn4 t a k') := by
  unfold withIn4
  rw [Memory.read4_congr h.inBuf]
  cases s.inBuf.read4 a with
  | none => exact rfl
  | some b => exact hk b

theorem sameOutcome_finishCommand {o o' : Outcome} (h : sameOutcome o o') :
    sameOutcome (finishCommand o) (finishCommand o') := by
  cases o with
  | next u =>
    cases o' with
    | next v => exact SameToHost.idle h
    | _ => exact h
  | _ => cases o' <;> exact h

/-! The commands. -/

theorem sameOutcome_execTagFromText (h : SameToHost s t) : sameOutcome (execTagFromText s) (execTagFromText t) := by
  unfold execTagFromText
  rw [h.srcLen]
  split
  · exact sameOutcome_raise h.dropTag _ _ _
  · refine sameOutcome_withIn4 h 0 fun x => ?_
    split
    · exact sameOutcome_complete (h.withTag x)
    · exact sameOutcome_raise h.dropTag _ _ _

theorem sameOutcome_execCrc32Raw (h : SameToHost s t) : sameOutcome (execCrc32Raw s) (execCrc32Raw t) := by
  unfold execCrc32Raw
  rw [h.srcLen, h.cfg]
  split
  · exact sameOutcome_raise h _ _ _
  · exact sameOutcome_withIn h _ _ fun bs => sameOutcome_complete (h.withResult _)

theorem sameOutcome_execChunkNew (h : SameToHost s t) : sameOutcome (execChunkNew s) (execChunkNew t) := by
  unfold execChunkNew
  rw [h.srcLen, h.cfg, h.tagPresent]
  split
  · exact sameOutcome_raise h.dropChunk _ _ _
  · rename_i htag
    rw [h.tag (by simpa using htag)]
    split
    · exact sameOutcome_raise h.dropChunk _ _ _
    · exact sameOutcome_withIn h _ _ fun p => sameOutcome_complete (h.withChunk _ p)

theorem sameOutcome_parseBody (h : SameToHost s t) (L n : Nat) (x : Tag) :
    sameOutcome (parseBody s L n x) (parseBody t L n x) := by
  unfold parseBody
  split
  · exact sameOutcome_raise h.dropChunk _ _ _
  · refine sameOutcome_withIn h _ _ fun p => sameOutcome_withIn4 h _ fun c => ?_
    split
    · exact sameOutcome_complete ((h.withChunk x p).withResult _)
    · exact sameOutcome_raise h.dropChunk _ _ _

theorem sameOutcome_execChunkParse (h : SameToHost s t) : sameOutcome (execChunkParse s) (execChunkParse t) := by
  unfold execChunkParse
  rw [h.srcLen, h.cfg]
  split
  · exact sameOutcome_raise h.dropChunk _ _ _
  · split
    · exact sameOutcome_raise h.dropChunk _ _ _
    · refine sameOutcome_withIn4 h _ fun d => sameOutcome_withIn4 h _ fun x => ?_
      split
      · exact sameOutcome_parseBody h _ _ x
      · exact sameOutcome_raise h.dropChunk _ _ _

/-- The image is stored over every byte of OUT that becomes observable. -/
theorem sameOutcome_execChunkSerialize (hs : s.Inv) (h : SameToHost s t) :
    sameOutcome (execChunkSerialize s) (execChunkSerialize t) := by
  refine sameOutcome_needChunk h fun hv => ?_
  rw [h.chLen hv]
  refine sameOutcome_complete (h.withOut fun a ha => ?_)
  rw [← hs.payload_length] at ha ⊢
  rw [serializeTo_eq_writeBytes_wire, serializeTo_eq_writeBytes_wire]
  exact Memory.read_writeBytes_zero_congr _ _ (by rwa [wire_length])

theorem sameOutcome_execChunkData (hs : s.Inv) (h : SameToHost s t) :
    sameOutcome (execChunkData s) (execChunkData t) := by
  refine sameOutcome_needChunk h fun hv => ?_
  rw [h.chLen hv]
  exact sameOutcome_complete (h.withOut fun a ha => Memory.read_writeBytes_zero_congr _ _ (by rwa [hs.payload_length]))

/-- Commands read observable state only. The invariant is what makes the payload CH_LEN bytes long, so that
CHUNK_SERIALIZE and CHUNK_DATA store every byte below the new OUT_LEN. -/
theorem sameOutcome_exec (hs : s.Inv) (h : SameToHost s t) (i : Instr) : sameOutcome (exec i s) (exec i t) := by
  cases i with
  | nop => exact sameOutcome_complete h
  | tagFromBytes =>
    simp only [exec, execTagFromBytes, h.tagIn]
    exact sameOutcome_complete (h.withTag _)
  | tagFromText => exact sameOutcome_execTagFromText h
  | tagBytes => exact sameOutcome_needTag h fun _ => sameOutcome_complete (h.withResult _)
  | tagIsValid => exact sameOutcome_tagPredicate h _
  | tagIsCritical =>
    simp only [exec, execTagIsCritical, h.cfg]
    exact sameOutcome_tagPredicate h _
  | tagIsPublic =>
    simp only [exec, execTagIsPublic, h.cfg]
    exact sameOutcome_tagPredicate h _
  | tagIsReservedBitValid =>
    simp only [exec, execTagIsReservedBitValid, h.cfg]
    exact sameOutcome_tagPredicate h _
  | tagIsSafeToCopy =>
    simp only [exec, execTagIsSafeToCopy, h.cfg]
    exact sameOutcome_tagPredicate h _
  | tagEq =>
    simp only [exec, execTagEq, h.tagIn]
    exact sameOutcome_tagPredicate h _
  | crc32Raw => exact sameOutcome_execCrc32Raw h
  | chunkNew => exact sameOutcome_execChunkNew h
  | chunkParse => exact sameOutcome_execChunkParse h
  | chunkSerialize => exact sameOutcome_execChunkSerialize hs h
  | chunkLength =>
    simp only [exec, execChunkLength]
    refine sameOutcome_needChunk h fun hv => ?_
    rw [h.chLen hv]
    exact sameOutcome_complete (h.withResult _)
  | chunkType =>
    simp only [exec, execChunkType]
    exact sameOutcome_needChunk h fun _ => sameOutcome_complete ((h.withTag _).withResult _)
  | chunkData => exact sameOutcome_execChunkData hs h
  | chunkCrc =>
    simp only [exec, execChunkCrc]
    exact sameOutcome_needChunk h fun _ => sameOutcome_complete (h.withResult _)

/-- PENDING is read only while BUSY = 1, when it is observable. -/
theorem sameOutcome_engineTurn (hs : s.Inv) (h : SameToHost s t) : sameOutcome (engineTurn s) (engineTurn t) := by
  unfold engineTurn
  rw [h.busy]
  split
  · rename_i hbusy
    refine sameOutcome_finishCommand ?_
    unfold runPending illegalCommand
    rw [h.pending hbusy]
    cases decode s.pending with
    | ok i => exact sameOutcome_exec hs h i
    | error e => exact sameOutcome_raise h _ _ _
  · exact h

/-! The host's accesses. -/

/-- The same answer to a host access: the same fault, or the same value read and states the host cannot tell apart. -/
def sameAnswer : Except Fault (State × Option Word) → Except Fault (State × Option Word) → Prop
  | .ok (s, v), .ok (t, w) => w = v ∧ SameToHost s t
  | .error f, .error g     => f = g
  | _, _                   => False

theorem sameAnswer_hostAccess (h : SameToHost s t) (a : Access) : sameAnswer (hostAccess s a) (hostAccess t a) := by
  unfold hostAccess
  rw [h.cfg, h.busy, h.inBuf, h.outLen]
  split
  · exact rfl
  · split
    · exact rfl
    · split
      · exact ⟨by rw [h.readOffset_eq], h⟩
      · exact ⟨rfl, h.writeOffset _ _⟩
      · cases s.inBuf.read a.offset with
        | none => exact rfl
        | some b => exact ⟨rfl, h⟩
      · exact ⟨rfl, by simpa only [h.cfg, h.busy, h.outLen] using h.writeIn _ _⟩
      · split
        · rw [h.outBuf _ ‹_›]
          cases s.outBuf.read a.offset with
          | none => exact rfl
          | some b => exact ⟨rfl, h⟩
        · exact rfl
      · exact rfl

theorem sameOutcome_transact (h : SameToHost s t) (a : Access) : sameOutcome (transact s a) (transact t a) := by
  have ha := sameAnswer_hostAccess h a
  unfold transact
  rw [h.host]
  generalize hostAccess s a = x at ha ⊢
  generalize hostAccess t a = y at ha ⊢
  rcases x with f | ⟨u, v⟩ <;> rcases y with g | ⟨u', w⟩
  · exact ha
  · exact ha
  · exact ha
  · obtain ⟨rfl, hsame⟩ := ha
    exact hsame.hostAt _ _

theorem sameOutcome_runLine (h : SameToHost s t) (line : HostLine) :
    sameOutcome (runLine s line) (runLine t line) := by
  cases line with
  | label l =>
    simp only [runLine, h.host]
    exact h.hostAt _ _
  | bit1 bit l =>
    simp only [runLine, branchOnBit, h.host]
    exact h.hostAt _ _
  | bus addr width d =>
    simp only [runLine, h.cfg]
    cases locate s.cfg addr with
    | none => exact rfl
    | some p => exact sameOutcome_transact h _
  | _ => exact sameOutcome_transact h _

theorem sameOutcome_hostTurn (h : SameToHost s t) : sameOutcome (hostTurn s) (hostTurn t) := by
  unfold hostTurn
  rw [h.host]
  cases s.host.prog[s.host.pc]? with
  | none => exact h
  | some line => exact sameOutcome_runLine h line

/-- Settles O60: both states give the turn to the same agent, and each agent's move reads observable state only. -/
theorem unobservableStateNeverShows : Obligations.UnobservableStateNeverShows := by
  intro s t hs _ h
  cases hturn : s.turn with
  | engine =>
    rw [step_engine hturn, step_engine (h.turn_eq.trans hturn)]
    exact sameOutcome_engineTurn hs.popTurn h.popTurn
  | host =>
    rw [step_host hturn, step_host (h.turn_eq.trans hturn)]
    exact sameOutcome_hostTurn h.popTurn
  | reset =>
    rw [step_reset hturn, step_reset (h.turn_eq.trans hturn)]
    exact h.popTurn.applyReset

end Sys2Proof.Stated
end

section
/-! PROOFS. What a step and a command leave alone (10_state.md R28 to R31, R35 to R40), and what CHUNK_PARSE and the
other readers of IN take from it (R37, R39). -/

namespace Sys2Proof.Machine

variable {s t u : State} {i : Instr} {e : ErrCode} {i0 i1 : Word}

/-! Steps. -/

/-- Settles O5. -/
theorem stepIsOneAgentsMove : Obligations.StepIsOneAgentsMove := by
  intro s
  refine ⟨step_engine, step_host, step_reset, fun hturns hbusy => ?_⟩
  simp [State.turn, hturns, hbusy]

/-- No access of a busy block's host writes (R236, R237). -/
theorem hostAccess_of_busy {a : Access} {v : Option Word} (hbusy : s.busy = true) (h : hostAccess s a = .ok (t, v)) :
    t = s := by
  rcases hostAccess_ok h with ht | ⟨w, hidle, -⟩ | ⟨b, hidle, -⟩
  · exact ht
  · simp [hbusy] at hidle
  · simp [hbusy] at hidle

/-- While BUSY = 1 the host's turn moves the host only. -/
theorem hostTurn_of_busy (hbusy : s.busy = true) (h : hostTurn s = .next t) : ∃ g, t = { s with host := g } := by
  rcases hostTurn_next h with rfl | ⟨k, rfl⟩ | ⟨a, u, v, ha, rfl⟩
  · exact ⟨t.host, rfl⟩
  · exact ⟨_, rfl⟩
  · obtain rfl := hostAccess_of_busy hbusy ha
    exact ⟨_, rfl⟩

/-- A busy engine's turn ends the command. -/
theorem engineTurn_of_busy (hbusy : s.busy = true) (h : engineTurn s = .next t) : t.busy = false := by
  rcases engineTurn_next h with ⟨hidle, -⟩ | ⟨-, -, rfl⟩ | ⟨-, i, u, -, -, rfl⟩
  · simp [hbusy] at hidle
  · rfl
  · rfl

/-- Settles O11, by whose turn it is. -/
theorem blockStandsStillWhileBusy : Obligations.BlockStandsStillWhileBusy := by
  intro s t h hbusy
  cases hturn : s.turn with
  | engine =>
    rw [step_engine hturn] at h
    have hidle := engineTurn_of_busy (by simpa using hbusy) h
    simp [hidle]
  | host =>
    rw [step_host hturn] at h
    obtain ⟨g, rfl⟩ := hostTurn_of_busy (by simpa using hbusy) h
    exact ⟨fun _ => rfl, fun hidle => by simp [hbusy] at hidle⟩
  | reset =>
    rw [step_reset hturn] at h
    injection h with h
    subst h
    simp

/-! Commands. Each frame is read off the writes of the effects; the error report is no part of it. -/

/-- Settles O36. -/
theorem commandsKeepOperandsAndInput : Obligations.CommandsKeepOperandsAndInput := by
  intro i s t h
  obtain ⟨u, e, i0, i1, heffect, rfl⟩ := exec_next h
  cases heffect <;> exact ⟨rfl, rfl, fun _ => rfl, rfl, rfl, rfl, rfl, rfl, rfl⟩

/-- Settles O37. -/
theorem onlyThreeCommandsWriteTheTagSlot : Obligations.OnlyThreeCommandsWriteTheTagSlot := by
  intro i s t h hi
  obtain ⟨u, e, i0, i1, heffect, rfl⟩ := exec_next h
  cases heffect with
  | tagFromBytes | textLength | textCharacter | textTag | chunkType => simp at hi
  | _ => exact ⟨rfl, rfl⟩

/-- Settles O38. -/
theorem onlyNewAndParseWriteTheChunkSlot : Obligations.OnlyNewAndParseWriteTheChunkSlot := by
  intro i s t h hi
  obtain ⟨u, e, i0, i1, heffect, rfl⟩ := exec_next h
  cases heffect with
  | newNoTag | newRange | chunkNew | parseRange | parseSmall | parseTag | parseBounds | parseCrc | chunkParse =>
    simp at hi
  | _ => exact ⟨rfl, rfl, rfl, rfl⟩

theorem payload_length_le (s : State) : s.payload.length ≤ s.chLen := by simp

/-- The image of R165 ends at 12+N. -/
theorem read_serializeTo_other (m : Memory) {n a : Nat} (t : Tag) {p : List Byte} (hp : p.length ≤ n) (ha : 12 + n ≤ a) :
    (serializeTo m n t p).read a = m.read a := by
  have four_below (k : Nat) (b : Bytes4) (hk : k + 4 ≤ a) : k + b.toList.length ≤ a := hk
  rw [serializeTo, Memory.read_writeBytes_other (.inr (four_below _ _ (by omega))),
    Memory.read_writeBytes_other (.inr (by omega)), Memory.read_writeBytes_other (.inr (four_below _ _ (by omega))),
    Memory.read_writeBytes_other (.inr (four_below _ _ (by omega)))]

/-- Settles O39: the two commands' own bytes end below 12+CH_LEN and CH_LEN. -/
theorem onlySerializeAndDataWriteOut : Obligations.OnlySerializeAndDataWriteOut := by
  intro i s t h
  obtain ⟨u, e, i0, i1, heffect, rfl⟩ := exec_next h
  have hlen := payload_length_le s
  cases heffect with
  | chunkSerialize => exact ⟨by simp, fun _ a ha => read_serializeTo_other _ _ hlen ha, nofun⟩
  | chunkData => exact ⟨by simp, nofun, fun _ a ha => Memory.read_writeBytes_other (by omega)⟩
  | _ => exact ⟨fun _ => ⟨rfl, fun _ => rfl⟩, fun _ _ _ => rfl, fun _ _ _ => rfl⟩

/-- Settles O40: only a success of a command with a scalar result writes RESULT. -/
theorem resultKeptWithoutAScalarResult : Obligations.ResultKeptWithoutAScalarResult := by
  intro i s t h hi
  obtain ⟨u, e, i0, i1, heffect, rfl⟩ := exec_next h
  cases heffect with
  | tagBytes | tagIsValid | tagIsCritical | tagIsPublic | tagIsReservedBitValid | tagIsSafeToCopy | tagEq | crc32Raw
  | chunkParse | chunkLength | chunkType | chunkCrc => simp at hi
  | _ => rfl

end Sys2Proof.Machine

namespace Sys2Proof.Stated

open Sys2Proof.Machine

/-- R61: the first byte is the most significant, so decoding is concatenation. -/
theorem be32Decode_eq_append (b : Bytes4) : be32Decode b = b.b0 ++ b.b1 ++ b.b2 ++ b.b3 := by
  ext k hk
  simp only [be32Decode, zext32, BitVec.getElem_or, BitVec.getElem_shiftLeft, BitVec.getElem_setWidth]
  grind

/-- The number of the statements is the model's. -/
theorem be32Decode_toNat (b : Bytes4) : (be32Decode b).toNat = be32 b := by
  simp only [be32Decode_eq_append, BitVec.toNat_append]
  rw [← Nat.shiftLeft_add_eq_or_of_lt b.b3.isLt, ← Nat.shiftLeft_add_eq_or_of_lt b.b2.isLt,
    ← Nat.shiftLeft_add_eq_or_of_lt b.b1.isLt]
  simp only [Nat.shiftLeft_eq, be32]
  ring

/-- Settles O23: a parse that reports no error is the last effect of CHUNK_PARSE, whose reads and checks say it all. -/
theorem parsedChunkMatchesItsChecksumField : Obligations.ParsedChunkMatchesItsChecksumField := by
  intro s t h hnone
  obtain ⟨u, e, i0, i1, heffect, rfl⟩ := exec_next h
  cases heffect with
  | @chunkParse d x c p _ _ _ hx hvalid _ hp hc hcrc =>
    obtain ⟨hlen, hp⟩ := readBytes_iff.1 hp
    have hpayload : (p ++ s.chPayload.drop p.length).take p.length = p := List.take_left
    simp only [State.withErr_chValid, State.withErr_chTag, State.withErr_chLen, State.withErr_chPayload,
      State.withResult_chValid, State.withResult_chTag, State.withResult_chLen, State.withResult_chPayload,
      State.withChunk_chValid, State.withChunk_chTag, State.withChunk_chLen, State.withChunk_chPayload, hpayload]
    refine ⟨trivial, (isValid_iff x).1 hvalid, read4_iff.1 hx, hp, c, ?_, ?_⟩
    · rw [hlen]; exact read4_iff.1 hc
    · rw [← be32Decode_toNat, hcrc]; rfl
  | _ => simp at hnone

/-- Of a range cut in two, an unwritten byte lies in one of the parts. -/
theorem unwritten_add {m : Memory} {a n k : Nat} (h : unwritten m a (n + k)) :
    unwritten m a n ∨ unwritten m (a + n) k := by
  obtain ⟨x, hx, hread⟩ := h
  by_cases hn : x < n
  · exact .inl ⟨x, hn, hread⟩
  · exact .inr ⟨x - n, by omega, by rwa [show a + n + (x - n) = a + x by omega]⟩

theorem execTagFromText_of_unwritten {s : State} (hlen : s.srcLen.toNat = 4) (h : unwritten s.inBuf 0 4) :
    execTagFromText s = .fault .uninitRead := by
  rw [execTagFromText, if_neg (not_not.2 hlen), withIn4_of_none (read4_none_iff.2 h)]

theorem execChunkNew_of_unwritten {s : State} (htag : s.tagPresent = true) (hlen : s.srcLen.toNat ≤ s.cfg.inSize)
    (h : unwritten s.inBuf 0 s.srcLen.toNat) : execChunkNew s = .fault .uninitRead := by
  rw [execChunkNew, if_neg (by simp [htag]), if_neg (not_lt.2 hlen), withIn_of_none (readBytes_none_iff.2 h)]

/-- The length checks of CHUNK_PARSE passed: what is left is its reads. -/
theorem execChunkParse_of_length {s : State} (hlen : s.srcLen.toNat ≤ s.cfg.inSize) (h12 : 12 ≤ s.srcLen.toNat) :
    execChunkParse s = withIn4 s 0 fun d => withIn4 s 4 fun t =>
      if isValid t then parseBody s s.srcLen.toNat (be32Decode d).toNat t
      else raise .chunkInvalidTagType 0 0 s.dropChunk := by
  rw [execChunkParse, if_neg (not_lt.2 hlen), if_neg (not_lt.2 h12)]

theorem execChunkParse_of_unwritten_head {s : State} (hlen : s.srcLen.toNat ≤ s.cfg.inSize)
    (h12 : 12 ≤ s.srcLen.toNat) (h : unwritten s.inBuf 0 8) : execChunkParse s = .fault .uninitRead := by
  rw [execChunkParse_of_length hlen h12]
  rcases withIn4_cases s 0 _ with ⟨d, hd, hgo⟩ | ⟨-, hfault⟩
  · rw [hgo]
    rcases unwritten_add (n := 4) (k := 4) h with hlow | hhigh
    · simp [read4_none_iff.2 hlow] at hd
    · exact withIn4_of_none (read4_none_iff.2 hhigh)
  · exact hfault

theorem parseBody_of_unwritten {s : State} {L n : Nat} (x : Tag) (hn : n ≤ L - 12) (h : unwritten s.inBuf 8 (n + 4)) :
    parseBody s L n x = .fault .uninitRead := by
  rw [parseBody, if_neg (not_lt.2 hn)]
  rcases withIn_cases s 8 n _ with ⟨p, hp, hgo⟩ | ⟨-, hfault⟩
  · rw [hgo]
    rcases unwritten_add h with hpayload | hcrc
    · simp [readBytes_none_iff.2 hpayload] at hp
    · exact withIn4_of_none (read4_none_iff.2 hcrc)
  · exact hfault

/-- Settles O30, command by command; CHUNK_PARSE by which of its reads meets the byte. -/
theorem unwrittenOperandByteFaults : Obligations.UnwrittenOperandByteFaults := by
  intro s
  refine ⟨execTagFromText_of_unwritten, execChunkNew_of_unwritten, fun hlen h12 =>
    ⟨execChunkParse_of_unwritten_head hlen h12, fun d x hd hx hvalid hn h => ?_⟩⟩
  rw [← be32Decode_toNat] at hn h
  rw [exec, execChunkParse_of_length hlen h12, withIn4_of_some (read4_iff.2 hd), withIn4_of_some (read4_iff.2 hx),
    if_pos ((isValid_iff x).2 hvalid)]
  exact parseBody_of_unwritten x hn h

end Sys2Proof.Stated
end

section
/-! PROOFS. What each host access reads and writes (10_state.md R22 to R34, R39, R40; 20_memory.md R66, R67). -/

namespace Sys2Proof.Stated

open Sys2Proof.Machine

variable {s : State} {o : Nat}

theorem busError_regAccess (c : Config) (hal : o % 4 = 0) (hlt : o < 0x40) (d : Direction) :
    busError c (regAccess o d) = false := by
  simp [busError, regAccess, regSize, hal, not_le.2 hlt]

theorem busError_inAccess {c : Config} (hlt : o < c.inSize) (d : Direction) : busError c (inAccess o d) = false := by
  simp [busError, inAccess, not_le.2 hlt]

theorem busError_outRead {c : Config} (hlt : o < c.outSize) : busError c (outRead o) = false := by
  simp [busError, outRead, Direction.isWrite, not_le.2 hlt]

/-- A read of a register: of any while idle, of STATUS and ID always (R236). -/
theorem hostAccess_regRead (hal : o % 4 = 0) (hlt : o < 0x40) (hb : s.busy = false ∨ o = 0x08 ∨ o = 0x00) :
    hostAccess s (regAccess o .read) = .ok (s, some (readOffset s o)) := by
  have hfree : (s.busy && !allowedWhileBusy (regAccess o .read)) = false := by
    rcases hb with hb | rfl | rfl
    · rw [hb]; rfl
    · exact Bool.and_false _
    · exact Bool.and_false _
  rw [hostAccess, busError_regAccess _ hal hlt, hfree]
  rfl

theorem hostAccess_regWrite (hal : o % 4 = 0) (hlt : o < 0x40) (hb : s.busy = false) (w : Word) :
    hostAccess s (regAccess o (.write w)) = .ok (writeOffset s o w, none) := by
  rw [hostAccess, busError_regAccess _ hal hlt, hb]
  rfl

theorem hostAccess_reg_beyond (h : 0x40 ≤ o) (d : Direction) : hostAccess s (regAccess o d) = .error .busError := by
  have hbus : busError s.cfg (regAccess o d) = true := by simp [busError, regAccess, regSize, h]
  rw [hostAccess, hbus]
  rfl

theorem hostAccess_inRead_written {b : Byte} (hlt : o < s.cfg.inSize) (hb : s.busy = false)
    (hread : s.inBuf.read o = some b) : hostAccess s (inAccess o .read) = .ok (s, some (zext32 b)) := by
  rw [hostAccess, busError_inAccess hlt, hb]
  simp [inAccess, hread]

theorem hostAccess_inRead_unwritten (hlt : o < s.cfg.inSize) (hb : s.busy = false) (hread : s.inBuf.read o = none) :
    hostAccess s (inAccess o .read) = .error .uninitRead := by
  rw [hostAccess, busError_inAccess hlt, hb]
  simp [inAccess, hread]

theorem hostAccess_inWrite (hlt : o < s.cfg.inSize) (hb : s.busy = false) (w : Word) :
    hostAccess s (inAccess o (.write w)) = .ok ({ s with inBuf := s.inBuf.write o (w.setWidth 8) }, none) := by
  rw [hostAccess, busError_inAccess hlt, hb]
  rfl

theorem hostAccess_outRead_valid {b : Byte} (hlt : o < s.cfg.outSize) (hb : s.busy = false) (hlen : o < s.outLen.toNat)
    (hread : s.outBuf.read o = some b) : hostAccess s (outRead o) = .ok (s, some (zext32 b)) := by
  rw [hostAccess, busError_outRead hlt, hb]
  simp [outRead, hread, hlen]

theorem hostAccess_outRead_stale (hlt : o < s.cfg.outSize) (hb : s.busy = false) (hlen : s.outLen.toNat ≤ o) :
    hostAccess s (outRead o) = .error .staleRead := by
  rw [hostAccess, busError_outRead hlt, hb]
  simp [outRead, not_lt.2 hlen]

/-! The registers. -/

theorem boolWord_getLsbD (p : Bool) (k : Nat) : (boolWord p).getLsbD k = (decide (k = 0) && p) := by
  cases p <;> simp [boolWord]

/-- The bits of STATUS, each a field of R24 or 0. -/
theorem statusWord_getLsbD (s : State) (k : Nat) :
    (statusWord s).getLsbD k = ((decide (k = 0) && s.busy) || (decide (k = 1) && s.err) || (decide (k = 2) && s.chValid) ||
      (decide (k = 3) && s.tagPresent)) := by
  simp only [statusWord, BitVec.getLsbD_or, BitVec.getLsbD_shiftLeft, boolWord_getLsbD]
  grind

/-- Settles O47. -/
theorem statusShowsItsFields : Obligations.StatusShowsItsFields := by
  refine ⟨fun s => ⟨statusWord s, hostAccess_regRead rfl (by decide) (.inr (.inl rfl)), ?_⟩, fun s w hb =>
    hostAccess_regWrite rfl (by decide) hb w, hostAccess_regRead rfl (by decide) (.inl rfl)⟩
  simp only [statusWord_getLsbD]
  refine ⟨by simp, by simp [State.err], by simp, by simp, fun k hk => ?_⟩
  obtain ⟨h0, h1, h2, h3⟩ : k ≠ 0 ∧ k ≠ 1 ∧ k ≠ 2 ∧ k ≠ 3 := by omega
  simp [h0, h1, h2, h3]

/-- Settles O48: a register at its offset, from the map. -/
theorem registersLieAtTheirOffsets : Obligations.RegistersLieAtTheirOffsets := by
  intro s
  refine ⟨hostAccess_regRead (by decide) (by decide) (.inr (.inr rfl)), fun hb => ?_⟩
  have read (o : Nat) (hal : o % 4 = 0) (hlt : o < 0x40) := hostAccess_regRead hal hlt (.inl hb)
  exact ⟨read 0x10 rfl (by decide), read 0x14 rfl (by decide), read 0x18 rfl (by decide), read 0x1C rfl (by decide),
    read 0x20 rfl (by decide), read 0x24 rfl (by decide), read 0x28 rfl (by decide), read 0x2C rfl (by decide),
    read 0x30 rfl (by decide), fun w =>
    ⟨hostAccess_regWrite rfl (by decide) hb w, hostAccess_regWrite rfl (by decide) hb w⟩⟩

/-- Settles O49. -/
theorem errCodeReadsTheListedCode : Obligations.ErrCodeReadsTheListedCode := by
  intro s hb
  refine ⟨errWord s.errCode, hostAccess_regRead rfl (by decide) (.inl hb), ?_⟩
  refine ⟨?_, ?_, ?_, ?_, ?_, ?_, ?_, ?_, ?_, ?_, ?_, ?_⟩ <;> (intro hcode; rw [hcode]; rfl)

/-- The offsets at which a write is ignored: the read-only registers and the reserved words. -/
theorem writeOffset_readOnly (s : State) (w : Word) :
    ∀ o ∈ [0x00, 0x08, 0x0C, 0x10, 0x14, 0x18, 0x24, 0x28, 0x2C, 0x30, 0x34, 0x38, 0x3C], writeOffset s o w = s := by
  simp only [List.forall_mem_cons, List.not_mem_nil, false_imp_iff, implies_true, and_true]
  exact ⟨rfl, rfl, rfl, rfl, rfl, rfl, rfl, rfl, rfl, rfl, rfl, rfl, rfl⟩

/-- CMD and the reserved words read 0. -/
theorem readOffset_zero (s : State) : ∀ o ∈ [0x04, 0x34, 0x38, 0x3C], readOffset s o = 0 := by
  simp only [List.forall_mem_cons, List.not_mem_nil, false_imp_iff, implies_true, and_true]
  exact ⟨rfl, rfl, rfl, rfl⟩

/-- Settles O50. -/
theorem readOnlyAndReservedOffsetsIgnoreWrites : Obligations.ReadOnlyAndReservedOffsetsIgnoreWrites := by
  intro s w
  refine ⟨fun o ho hb => ?_, fun o ho hb => ?_, fun o d ho => hostAccess_reg_beyond ho d⟩
  · obtain ⟨hal, hlt⟩ : o % 4 = 0 ∧ o < 0x40 := by revert o; decide
    rw [hostAccess_regWrite hal hlt hb, writeOffset_readOnly s w o ho]
  · obtain ⟨hal, hlt⟩ : o % 4 = 0 ∧ o < 0x40 := by revert o; decide
    rw [hostAccess_regRead hal hlt (.inl hb), readOffset_zero s o ho]

/-! The buffers. -/

/-- Settles O51. -/
theorem inBytesReadAsWritten : Obligations.InBytesReadAsWritten := by
  intro s o hb hlt
  exact ⟨fun w => ⟨_, hostAccess_inWrite hlt hb w, rfl, Memory.read_write_same _ _ _, fun a ha =>
    Memory.read_write_other ha⟩, fun b hread => hostAccess_inRead_written hlt hb hread,
    hostAccess_inRead_unwritten hlt hb⟩

/-- Settles O52: the invariant fills OUT below OUT_LEN. -/
theorem outReadsOnlyBelowOutLen : Obligations.OutReadsOnlyBelowOutLen := by
  intro s o hs hb
  refine ⟨fun hlen => ?_, fun hlen hlt => hostAccess_outRead_stale hlt hb hlen⟩
  obtain ⟨b, hread⟩ := Option.isSome_iff_exists.1 (hs.out_filled o hlen)
  exact ⟨b, hread, hostAccess_outRead_valid (lt_of_lt_of_le hlen hs.out_len) hb hlen hread⟩

end Sys2Proof.Stated
end

section
/-! PROOFS. The host's side of the memory model (20_memory.md): big-endian words (R61, R62), the bus errors (R66), what an
access and the host's turn leave alone (R67, R69), and where the spaces lie (R70). -/

namespace Sys2Proof.Machine

variable {s t : State} {a : Access} {v : Option Word} {o : Nat}

/-! What one access can do, by its direction. -/

/-- An access that does not fault is a read, which only gives a value, a register write, or the write of a byte of IN. -/
theorem hostAccess_ok_cases (h : hostAccess s a = .ok (t, v)) :
    (a.dir = .read ∧ t = s ∧ ∃ w, v = some w) ∨
      (∃ w, a.dir = .write w ∧ a.space = .reg ∧ t = writeOffset s a.offset w) ∨
      ∃ w, a.dir = .write w ∧ a.space = .inBuf ∧ t = { s with inBuf := s.inBuf.write a.offset (w.setWidth 8) } := by
  unfold hostAccess at h
  split at h
  · cases h
  · split at h
    · cases h
    · split at h
      · cases h; exact .inl ⟨‹_›, rfl, _, rfl⟩
      · cases h; exact .inr (.inl ⟨_, ‹_›, ‹_›, rfl⟩)
      · split at h
        · cases h; exact .inl ⟨‹_›, rfl, _, rfl⟩
        · cases h
      · cases h; exact .inr (.inr ⟨_, ‹_›, ‹_›, rfl⟩)
      · split at h
        · split at h
          · cases h; exact .inl ⟨‹_›, rfl, _, rfl⟩
          · cases h
        · cases h
      · cases h

/-- A register write elsewhere than at CMD writes TAG_IN at 0x1C, SRC_LEN at 0x20, and nothing anywhere else. -/
theorem writeOffset_of_ne_cmd (s : State) (w : Word) (h : o ≠ 0x04) :
    writeOffset s o w = s ∨ (o = 0x1C ∧ writeOffset s o w = { s with tagIn := w }) ∨
      (o = 0x20 ∧ writeOffset s o w = { s with srcLen := w }) := by
  rcases hreg : regAt o with _ | r
  · exact .inl (by rw [writeOffset, hreg])
  · obtain rfl := Stated.offset_of_regAt hreg
    cases r with
    | cmd => exact absurd rfl h
    | tagIn => exact .inr (.inl ⟨rfl, rfl⟩)
    | srcLen => exact .inr (.inr ⟨rfl, rfl⟩)
    | _ => exact .inl rfl

/-- Settles O46, by the three kinds of access that do not fault. -/
theorem onlyCmdWritesHaveASideEffect : Obligations.OnlyCmdWritesHaveASideEffect := by
  intro s t a v h
  rcases hostAccess_ok_cases h with ⟨hdir, rfl, hval⟩ | ⟨w, hdir, hspace, rfl⟩ | ⟨w, hdir, hspace, rfl⟩
  · exact ⟨fun _ => ⟨rfl, h, hval⟩, fun hwrite => absurd hdir hwrite⟩
  · refine ⟨fun hread => by simp [hdir] at hread, fun _ hcmd => ?_⟩
    rcases writeOffset_of_ne_cmd s w (fun ho => hcmd ⟨hspace, ho⟩) with e | ⟨ho, e⟩ | ⟨ho, e⟩ <;> rw [e]
    · exact ⟨rfl, absurd rfl, absurd rfl, fun _ => absurd rfl⟩
    · exact ⟨rfl, fun _ => ⟨hspace, ho⟩, absurd rfl, fun _ => absurd rfl⟩
    · exact ⟨rfl, absurd rfl, fun _ => ⟨hspace, ho⟩, fun _ => absurd rfl⟩
  · refine ⟨fun hread => by simp [hdir] at hread, fun _ _ => ⟨rfl, absurd rfl, absurd rfl, fun x hx => ⟨hspace, ?_⟩⟩⟩
    by_contra hne
    exact hx (Memory.read_write_other (Ne.symm hne))

/-- An access writes at most an operand register, IN, or BUSY and PENDING. -/
theorem hostAccess_frame (h : hostAccess s a = .ok (t, v)) :
    t = { s with busy := t.busy, pending := t.pending, tagIn := t.tagIn, srcLen := t.srcLen, inBuf := t.inBuf } := by
  rcases hostAccess_ok h with rfl | ⟨w, -, rfl⟩ | ⟨b, -, -, rfl⟩
  · rfl
  · rcases writeOffset_cases s a.offset w with e | e | e | e
    · rw [e]
    · rw [e]; rfl
    · rw [e]
    · rw [e]
  · rfl

/-- Settles O53: the host's turn is at most one access and a move in its program. -/
theorem hostCannotWriteResultsOrSlots : Obligations.HostCannotWriteResultsOrSlots := by
  intro s t h hturn
  rw [step_host hturn] at h
  rcases hostTurn_next h with rfl | ⟨k, rfl⟩ | ⟨a, u, v, haccess, rfl⟩
  · rfl
  · rfl
  · rw [hostAccess_frame haccess]
    rfl

/-! The bus errors. -/

/-- Only the first check of an access answers BUS_ERROR: a write of OUT never comes past it. -/
theorem hostAccess_eq_busError_iff : hostAccess s a = .error .busError ↔ busError s.cfg a = true := by
  unfold hostAccess
  split
  · simp [*]
  · rename_i hbus
    refine iff_of_false (fun h => ?_) hbus
    split at h
    · split at h <;> cases h
    · split at h
      · cases h
      · cases h
      · split at h <;> cases h
      · cases h
      · split at h
        · split at h <;> cases h
        · cases h
      · rename_i hspace hdir
        simp [busError, hspace, hdir, Direction.isWrite] at hbus

theorem Direction.isWrite_iff (d : Direction) : d.isWrite = true ↔ d ≠ .read := by
  cases d <;> simp [Direction.isWrite]

/-- The model's list of bus errors is R66's. -/
theorem busError_iff (c : Config) (a : Access) : busError c a = true ↔ Stated.isBusError c a := by
  unfold busError Stated.isBusError
  cases a.space with
  | reg =>
    simp only [Bool.or_eq_true, bne_iff_ne, decide_eq_true_eq, or_assoc, true_and, reduceCtorEq, false_and, or_false]
    exact Iff.rfl
  | inBuf => simp
  | outBuf => simp [Direction.isWrite_iff, or_assoc]

/-- Settles O44: BUS_ERROR is the answer of the first check alone, and that check is the list. -/
theorem busErrorsAreExactlyTheListed : Obligations.BusErrorsAreExactlyTheListed := fun s a =>
  hostAccess_eq_busError_iff.trans (busError_iff s.cfg a)

/-! The spaces. -/

theorem windowsDisjoint_iff (b n b' n' : Nat) : windowsDisjoint b n b' n' = true ↔ b + n ≤ b' ∨ b' + n' ≤ b := by
  simp [windowsDisjoint]

/-- R10's constraint on the bases. -/
theorem Config.disjoint_of_wf {c : Config} (h : c.wf = true) :
    (c.regBase + regSize ≤ c.inBase ∨ c.inBase + c.inSize ≤ c.regBase) ∧
      (c.regBase + regSize ≤ c.outBase ∨ c.outBase + c.outSize ≤ c.regBase) ∧
      (c.inBase + c.inSize ≤ c.outBase ∨ c.outBase + c.outSize ≤ c.inBase) := by
  simp only [Config.wf, Config.basesOk, Bool.and_eq_true, windowsDisjoint_iff] at h
  obtain ⟨-, ⟨hregIn, hregOut⟩, hinOut⟩ := h
  exact ⟨hregIn, hregOut, hinOut⟩

/-- An address inside one of three windows that do not overlap is found there. -/
theorem locate_platformAddress {c : Config} (h : c.wf = true) {sp : Space} (ho : o < spaceSize c sp) :
    locate c (platformAddress c sp o) = some (sp, o) := by
  obtain ⟨hregIn, hregOut, hinOut⟩ := Config.disjoint_of_wf h
  cases sp with
  | reg =>
    have hlt : o < regSize := ho
    rw [platformAddress, spaceBase, locate, if_pos (by omega), Nat.add_sub_cancel_left]
  | inBuf =>
    have hlt : o < c.inSize := ho
    rw [platformAddress, spaceBase, locate, if_neg (by omega), if_pos (by omega), Nat.add_sub_cancel_left]
  | outBuf =>
    have hlt : o < c.outSize := ho
    rw [platformAddress, spaceBase, locate, if_neg (by omega), if_neg (by omega), if_pos (by omega),
      Nat.add_sub_cancel_left]

/-- Settles O55, space by space. -/
theorem spacesLieAtTheirBases : Obligations.SpacesLieAtTheirBases := by
  intro c sp o h ho
  have hsize : o < spaceSize c sp := by cases sp <;> exact ho
  cases sp <;> exact locate_platformAddress h hsize

end Sys2Proof.Machine

namespace Sys2Proof.Stated

open Sys2Proof.Machine

/-! Big-endian words. -/

/-- The four bytes of a word, put together again. -/
theorem be32Decode_be32Encode (v : Word) : be32Decode (be32Encode v) = v := by
  simp only [be32Decode_eq_append, be32Encode, BitVec.extractLsb'_append_extractLsb'_eq_extractLsb',
    BitVec.extractLsb'_eq_self]

/-- Above the last byte of a concatenation lies what stands before it, eight bits up. -/
theorem extractLsb'_append_byte {n : Nat} (hi : BitVec n) (lo : Byte) (k : Nat) :
    (hi ++ lo).extractLsb' (k + 8) 8 = hi.extractLsb' k 8 :=
  BitVec.extractLsb'_append_eq_of_le (Nat.le_add_left 8 k)

/-- The four fields of a decoded word are the bytes it was decoded from. -/
theorem be32Encode_be32Decode (b : Bytes4) : be32Encode (be32Decode b) = b := by
  have drop3 := extractLsb'_append_byte (b.b0 ++ b.b1 ++ b.b2) b.b3
  have drop2 := extractLsb'_append_byte (b.b0 ++ b.b1) b.b2
  have drop1 := extractLsb'_append_byte b.b0 b.b1
  rw [be32Decode_eq_append, be32Encode, drop3 16, drop2 8, drop1 0, drop3 8, drop2 0, drop3 0]
  simp only [BitVec.extractLsb'_append_eq_right, BitVec.extractLsb'_eq_self]

/-- Settles O32: the fields are the definition's, and the two functions are inverse to each other. -/
theorem be32EncodeInvertsDecode : Obligations.Be32EncodeInvertsDecode :=
  ⟨fun _ => rfl, be32Decode_be32Encode, be32Encode_be32Decode, rfl⟩

/-- Settles O31: the fields of a decoded word are those `be32Encode` reads. -/
theorem be32DecodeIsMostSignificantFirst : Obligations.Be32DecodeIsMostSignificantFirst :=
  ⟨fun b => ⟨be32Decode_toNat b, congrArg Bytes4.b0 (be32Encode_be32Decode b),
    congrArg Bytes4.b3 (be32Encode_be32Decode b)⟩, rfl⟩

end Sys2Proof.Stated
end

section
/-! PROOFS. Command words and their decoder (30_encoding.md R80 to R84), and the life of a command: the CMD write that
issues it, and the engine's step that ends it (R85 to R87). -/

namespace Sys2Proof

variable {w : Word} {b : BitVec 8} {i : Instr}

/-! The command words. -/

/-- The two readings of R82's table, from OPCODE and from command, are one table. -/
theorem commandOf_eq_some_iff : commandOf b = some i ↔ b = opcodeOf i := by
  constructor
  · intro h
    unfold commandOf at h
    split at h <;> cases h <;> exact BitVec.eq_of_toNat_eq ‹_›
  · rintro rfl
    cases i <;> rfl

/-- The OPCODE values no row of R82 has. -/
theorem commandOf_eq_none_iff : commandOf b = none ↔
    (0x0A ≤ b.toNat ∧ b.toNat ≤ 0x0F) ∨ (0x11 ≤ b.toNat ∧ b.toNat ≤ 0x1F) ∨ 0x27 ≤ b.toNat := by
  unfold commandOf
  split
  -- The last case is the default row, where each of the 18 values is excluded.
  case h_19 => simp only [imp_false, true_iff] at *; omega
  all_goals simp [*]

theorem reservedField_encode (i : Instr) : reservedField (encode i) = 0 := BitVec.extractLsb'_append_eq_left

theorem opcodeField_encode (i : Instr) : opcodeField (encode i) = opcodeOf i := BitVec.extractLsb'_append_eq_right

/-- R80: the two fields are the whole word. -/
theorem reservedField_append_opcodeField (w : Word) : reservedField w ++ opcodeField w = w := by
  rw [reservedField, opcodeField, BitVec.extractLsb'_append_extractLsb'_eq_extractLsb' (by rfl),
    BitVec.extractLsb'_eq_self]

/-- A command's word is the one with its OPCODE below zero reserved bits. -/
theorem eq_encode_iff : w = encode i ↔ reservedField w = 0 ∧ opcodeField w = opcodeOf i := by
  constructor
  · rintro rfl
    exact ⟨reservedField_encode i, opcodeField_encode i⟩
  · rintro ⟨hreserved, hopcode⟩
    rw [← reservedField_append_opcodeField w, hreserved, hopcode, encode]

/-! The decoder. -/

theorem decode_of_reserved (h : reservedField w ≠ 0) : decode w = .error .reservedBits := if_pos h

theorem decode_of_command (h : reservedField w = 0) (hi : commandOf (opcodeField w) = some i) : decode w = .ok i := by
  simp [decode, h, hi]

theorem decode_of_unassigned (h : reservedField w = 0) (hn : commandOf (opcodeField w) = none) :
    decode w = .error .unassignedOpcode := by
  simp [decode, h, hn]

/-- The words that decode to a command are its word. -/
theorem decode_eq_ok_iff : decode w = .ok i ↔ w = encode i := by
  rw [eq_encode_iff, ← commandOf_eq_some_iff]
  refine ⟨fun h => ?_, fun ⟨hreserved, hi⟩ => decode_of_command hreserved hi⟩
  by_cases hreserved : reservedField w = 0
  · rcases hc : commandOf (opcodeField w) with _ | j
    · cases (decode_of_unassigned hreserved hc).symm.trans h
    · cases (decode_of_command hreserved hc).symm.trans h
      exact ⟨hreserved, rfl⟩
  · cases (decode_of_reserved hreserved).symm.trans h

/-- R83: the words that decode to no command, by their fields. -/
theorem decode_ne_ok_iff :
    (∀ i, decode w ≠ .ok i) ↔ reservedField w ≠ 0 ∨ commandOf (opcodeField w) = none := by
  simp only [ne_eq, decode_eq_ok_iff, eq_encode_iff, ← commandOf_eq_some_iff, not_and]
  rw [forall_comm, imp_iff_not_or, Option.eq_none_iff_forall_ne_some]

/-- R83's words are those that decode to no command. -/
theorem illegalWord_iff : Stated.illegalWord w ↔ ∀ i, decode w ≠ .ok i := by
  rw [decode_ne_ok_iff, commandOf_eq_none_iff]
  rfl

/-- Settles O2: both directions are the one equivalence of `decode_eq_ok_iff`. -/
theorem decodeAndEncodeAgree : Obligations.DecodeAndEncodeAgree :=
  ⟨fun _ _ => decode_eq_ok_iff.2 rfl, fun _ _ => decode_eq_ok_iff.1⟩

theorem opcodeOf_toNat_mem (i : Instr) : (opcodeOf i).toNat ∈
    [0x00, 0x01, 0x02, 0x03, 0x04, 0x05, 0x06, 0x07, 0x08, 0x09, 0x10, 0x20, 0x21, 0x22, 0x23, 0x24, 0x25, 0x26] := by
  cases i <;> decide

/-- Settles O1: the rows by computation, the converse from the fields of a command's word. -/
theorem everyOpcodeRowDecodes : Obligations.EveryOpcodeRowDecodes := by
  refine ⟨rfl, rfl, rfl, rfl, rfl, rfl, rfl, rfl, rfl, rfl, rfl, rfl, rfl, rfl, rfl, rfl, rfl, rfl, fun w i h => ?_⟩
  obtain ⟨hreserved, hopcode⟩ := eq_encode_iff.1 (decode_eq_ok_iff.1 h)
  refine ⟨hreserved, ?_⟩
  change (opcodeField w).toNat ∈ _
  rw [hopcode]
  exact opcodeOf_toNat_mem i

end Sys2Proof

namespace Sys2Proof.Machine

variable {s : State} {i : Instr}

/-! The issue of a command. -/

theorem hostAccess_cmdWrite_idle (hb : s.busy = false) (w : Word) :
    hostAccess s (Stated.regAccess 0x04 (.write w)) = .ok (s.issue w, none) :=
  Stated.hostAccess_regWrite rfl (by decide) hb w

/-- R237. -/
theorem hostAccess_cmdWrite_busy (hb : s.busy = true) (w : Word) :
    hostAccess s (Stated.regAccess 0x04 (.write w)) = .error .cmdWhileBusy := by
  rw [hostAccess, Stated.busError_regAccess _ rfl (by decide), hb]
  rfl

/-- Settles O4. -/
theorem cmdWriteIssuesTheCommand : Obligations.CmdWriteIssuesTheCommand := fun _ w =>
  ⟨fun hb => hostAccess_cmdWrite_idle hb w, fun hb => hostAccess_cmdWrite_busy hb w⟩

/-! The engine's step. -/

theorem engineTurn_of_command (hb : s.busy = true) (hd : decode s.pending = .ok i) :
    engineTurn s = finishCommand (exec i s) := by
  simp [engineTurn, runPending, hb, hd]

theorem engineTurn_of_illegal (hb : s.busy = true) (hd : ∀ i, decode s.pending ≠ .ok i) :
    engineTurn s = .next (s.withErr .illegalCmd s.pending 0).idle := by
  rcases h : decode s.pending with e | i
  · simp [engineTurn, runPending, illegalCommand, finishCommand, hb, h]
  · exact absurd h (hd i)

/-- Settles O3: what is illegal is what does not decode, and what does not decode completes with ILLEGAL_CMD. -/
theorem illegalWordCompletesWithIllegalCmd : Obligations.IllegalWordCompletesWithIllegalCmd := by
  refine fun w => ⟨illegalWord_iff, fun hw s => ⟨fun hb => hostAccess_cmdWrite_idle hb w, ?_⟩⟩
  rintro hb rfl
  exact engineTurn_of_illegal hb (illegalWord_iff.1 hw)

/-- Settles O6. -/
theorem engineStepRunsTheDecodedCommand : Obligations.EngineStepRunsTheDecodedCommand := by
  intro s i hturn hb hd
  rw [step_engine hturn, engineTurn_of_command (by simpa using hb) (by simpa using hd)]
  rfl

/-- A command in flight ends with BUSY = 0, or reads an IN byte not written since reset. -/
theorem engineTurn_completes (hb : s.busy = true) :
    (∃ t, engineTurn s = .next t ∧ t.busy = false) ∨ engineTurn s = .fault .uninitRead := by
  by_cases hd : ∃ i, decode s.pending = .ok i
  · obtain ⟨i, hd⟩ := hd
    rw [engineTurn_of_command hb hd]
    rcases exec_answers i s with ⟨u, e, i0, i1, -, hnext⟩ | ⟨-, hfault⟩
    · rw [hnext]; exact .inl ⟨_, rfl, rfl⟩
    · rw [hfault]; exact .inr rfl
  · exact .inl ⟨_, engineTurn_of_illegal hb (not_exists.1 hd), rfl⟩

/-- Settles O7. -/
theorem engineStepAlwaysCompletes : Obligations.EngineStepAlwaysCompletes := by
  intro s hturn hb
  rw [step_engine hturn]
  exact engineTurn_completes hb

theorem mem_of_readsIn (h : readsIn i = true) : i ∈ [.tagFromText, .crc32Raw, .chunkNew, .chunkParse] := by
  unfold readsIn at h
  split at h
  · decide
  · decide
  · decide
  · decide
  · cases h

/-- Settles O8: the two answers of `exec_answers`. -/
theorem commandsNeverRefuse : Obligations.CommandsNeverRefuse := by
  intro i s
  rcases exec_answers i s with ⟨u, e, i0, i1, -, hnext⟩ | ⟨hreads, hfault⟩
  · rw [hnext]
    exact ⟨nofun, nofun⟩
  · rw [hfault]
    refine ⟨nofun, fun f hf => ?_⟩
    cases hf
    exact ⟨rfl, mem_of_readsIn hreads⟩

end Sys2Proof.Machine
end

section
/-! PROOFS. What each line of host assembly does on the host's turn (30_encoding.md R88, 20_memory.md R70). -/

namespace Sys2Proof.Machine

variable {s t : State} {a : Access} {line : HostLine}

/-- A line that is a bus transaction makes it. -/
theorem runLine_of_transaction (h : Stated.transactionOf s.cfg line = some a) : runLine s line = transact s a := by
  cases line with
  | label l => cases h
  | bit1 bit l => cases h
  | bus addr width d =>
    obtain ⟨p, hlocate, rfl⟩ := Option.map_eq_some_iff.1 h
    simp [runLine, hlocate]
  | _ => cases h; rfl

theorem runLine_bus_outside {addr : Nat} (h : locate s.cfg addr = none) (width : Nat) (d : Direction) :
    runLine s (.bus addr width d) = .refused .hostOutsideBlock := by
  simp [runLine, h]

theorem transact_of_ok {v : Option Word} (h : hostAccess s a = .ok (t, v)) :
    transact s a = .next (t.hostAt (s.host.pc + 1) v) := by
  rw [transact, h]

theorem transact_of_error {f : Fault} (h : hostAccess s a = .error f) : transact s a = .fault f := by
  rw [transact, h]

/-- Taking the turn off the list is no part of an access. -/
theorem hostAccess_popTurn (s : State) (a : Access) :
    hostAccess s.popTurn a = (hostAccess s a).map fun p => ({ p.1 with turns := s.turns.tail }, p.2) :=
  Stated.hostAccess_turns s s.turns.tail a

/-- An access that faults ends the host's step with its fault. -/
theorem transact_popTurn_of_error {f : Fault} (h : hostAccess s a = .error f) : transact s.popTurn a = .fault f :=
  transact_of_error (by rw [hostAccess_popTurn, h]; rfl)

/-- An access that answers: the state after it, with the host on its next line and the turn taken off the list. -/
theorem transact_popTurn_of_ok {v : Option Word} (h : hostAccess s a = .ok (t, v)) :
    transact s.popTurn a = .next { t with
      host := { s.host with pc := s.host.pc + 1, lastRead := v.getD s.host.lastRead }, turns := s.turns.tail } := by
  obtain ⟨-, -, hhost⟩ := hostAccess_keeps h
  have hpop : hostAccess s.popTurn a = .ok ({ t with turns := s.turns.tail }, v) := by
    rw [hostAccess_popTurn, h]; rfl
  rw [transact_of_ok hpop, State.hostAt, State.popTurn_host, hhost]

/-- The host's step on a line of its program. -/
theorem step_line (hturn : s.turn = .host) (hline : s.host.prog[s.host.pc]? = some line) :
    step s = runLine s.popTurn line := by
  simp [step_host hturn, hostTurn, hline]

/-- `BIT1` moves the host to the line its bit chooses (R88). -/
theorem branchOnBit_popTurn (s : State) (bit : Nat) (l : Label) :
    branchOnBit s.popTurn bit l = .next { s with
      host := { s.host with
        pc := if testedBit s.host.lastRead bit then branchTarget s.host.prog s.host.pc l else s.host.pc + 1 }
      turns := s.turns.tail } := rfl

/-- Settles O54, by what the line is: a bus transaction, `BIT1`, a label, or a platform address outside the block. -/
theorem eachHostLineIsItsTransaction : Obligations.EachHostLineIsItsTransaction := by
  intro s line hturn hline
  rw [step_line hturn hline]
  refine ⟨fun a ha => ?_, ?_, ?_, ?_⟩
  · rw [runLine_of_transaction (s := s.popTurn) ha]
    exact ⟨fun f => transact_popTurn_of_error, fun t v => transact_popTurn_of_ok⟩
  · rintro bit l rfl
    rw [runLine, branchOnBit_popTurn]
    refine ⟨fun hbit hclear => ?_, fun k hbit hset hlabel => ?_, _, rfl⟩
    · simp [testedBit_of_lt hbit, hclear]
    · simp [testedBit_of_lt hbit, hset, branchTarget_of_some hlabel]
  · rintro l rfl
    rfl
  · rintro addr width d rfl hlocate
    exact runLine_bus_outside (s := s.popTurn) hlocate width d

end Sys2Proof.Machine
end

section
/-! PROOFS. NOP (40_control.md R90): it completes, and does nothing more. -/

namespace Sys2Proof.Machine

variable {w : Word}

/-- NOP is `complete()` alone, and the error report is all that `complete()` writes (R203). -/
theorem exec_nop (s : State) : exec .nop s = .next (Stated.succeeded s) := rfl

/-- A reset state already has the clear error report (R231), which NOP writes again. -/
theorem succeeded_reset : Stated.succeeded State.reset = State.reset := rfl

/-- A word with a reserved bit set is no command, whatever its OPCODE (R83). -/
theorem decode_ne_ok_of_reserved (h : reservedField w ≠ 0) : ∀ i, decode w ≠ .ok i :=
  decode_ne_ok_iff.2 (.inl h)

/-- Settles O12: the decoder looks at the reserved bits first, so NOP's OPCODE below other bits is an illegal word. -/
theorem nopClearsTheErrorReport : Obligations.NopClearsTheErrorReport := by
  refine ⟨decode_eq_ok_iff.2 rfl, exec_nop, fun w _ hreserved => ?_, (exec_nop _).trans (congrArg _ succeeded_reset)⟩
  have hillegal : ∀ i, decode w ≠ .ok i := decode_ne_ok_of_reserved hreserved
  refine ⟨hillegal .nop, ?_⟩
  rintro s hb rfl
  exact engineTurn_of_illegal hb hillegal

end Sys2Proof.Machine
end

section
/-! PROOFS. The TypeTag commands (41_typetag.md R100 to R110): the two that store a tag, the one that packs it, and the
predicates of the tag, each tied to its rule's property of the tag's bytes. -/

namespace Sys2Proof.Stated

open Sys2Proof.Machine

variable {s : State} {t : Tag}

/-! The two commands that store a tag. -/

theorem exec_tagFromBytes (s : State) :
    exec .tagFromBytes s = .next ((s.withTag (unpackTag s.tagIn)).withErr .none 0 0) := rfl

/-- Settles O13: the four fields are those of `unpackTag`. -/
theorem tagFromBytesStoresTagIn : Obligations.TagFromBytesStoresTagIn :=
  ⟨decode_eq_ok_iff.2 rfl, exec_tagFromBytes⟩

/-- The length is checked before IN is read. -/
theorem exec_tagFromText_of_length_ne (h : s.srcLen.toNat ≠ 4) :
    exec .tagFromText s = .next (s.dropTag.withErr .tagLength s.srcLen 0) := if_pos h

/-- Past the length check, the four bytes of IN are the tag, if they are letters. -/
theorem exec_tagFromText_of_length (h : s.srcLen.toNat = 4) (ht : bytesAre s.inBuf 0 (four t)) :
    exec .tagFromText s =
      if allAlpha t then complete (s.withTag t) else raise .tagInvalidCharacter 0 0 s.dropTag := by
  rw [exec, execTagFromText, if_neg (not_not.2 h), withIn4_of_some (read4_iff.2 ht)]

/-- Settles O14: the checks in the order of R103, the length's and then the letters'. -/
theorem tagFromTextChecksLengthThenLetters : Obligations.TagFromTextChecksLengthThenLetters := by
  refine ⟨decode_eq_ok_iff.2 rfl, fun s => ⟨exec_tagFromText_of_length_ne, fun t hlen ht => ?_⟩⟩
  rw [exec_tagFromText_of_length hlen ht, ← allAlpha_iff]
  exact ⟨fun hletters => if_pos hletters, fun hletters => if_neg hletters⟩

/-! The packed tag. -/

theorem exec_tagBytes_of_present (h : s.tagPresent = true) :
    exec .tagBytes s = .next ((s.withResult (packTag s.tag)).withErr .none 0 0) := by
  rw [exec, execTagBytes, needTag_of_present h, complete_eq]

theorem exec_tagBytes_of_absent (h : s.tagPresent = false) :
    exec .tagBytes s = .next (s.withErr .noTag 0 0) := by
  rw [exec, execTagBytes, needTag_of_absent h]

/-- Settles O15: the word is `packTag`'s, whose number R61 gives. -/
theorem tagBytesPacksTheTag : Obligations.TagBytesPacksTheTag :=
  ⟨decode_eq_ok_iff.2 rfl, fun s =>
    ⟨fun hpresent => ⟨packTag s.tag, be32Decode_toNat s.tag, exec_tagBytes_of_present hpresent⟩,
      exec_tagBytes_of_absent⟩⟩

/-- A tag packs to a word exactly if it is that word's four bytes. -/
theorem be32_eq_toNat_iff {v : Word} : be32 t = v.toNat ↔ t = unpackTag v := by
  rw [← be32Decode_toNat, BitVec.toNat_inj]
  constructor
  · rintro rfl
    exact (be32Encode_be32Decode t).symm
  · rintro rfl
    exact be32Decode_be32Encode v

/-! The predicates of the tag. -/

/-- A command that is `tagPredicate` of a function p tests the property p decides. -/
theorem testsTag_of_tagPredicate {w : Word} {i : Instr} {p : State → Tag → Bool} {P : State → Prop}
    (hword : w = encode i) (hexec : ∀ s, exec i s = tagPredicate (p s) s) (hp : ∀ s, p s s.tag = true ↔ P s) :
    testsTag w i P := by
  refine ⟨decode_eq_ok_iff.2 hword, fun s => ?_⟩
  rw [hexec, ← hp]
  refine ⟨needTag_of_absent, fun hpresent htrue => ?_, fun hpresent hfalse => ?_⟩
  · rw [tagPredicate, needTag_of_present hpresent, htrue]
    rfl
  · rw [tagPredicate, needTag_of_present hpresent, Bool.eq_false_of_not_eq_true hfalse]
    rfl

/-- Settles O16. -/
theorem tagIsValidTestsAllFourBytes : Obligations.TagIsValidTestsAllFourBytes :=
  testsTag_of_tagPredicate rfl (fun _ => rfl) fun s => isValid_iff s.tag

/-- Settles O18: equal packed words are equal tags. -/
theorem tagEqComparesAllBits : Obligations.TagEqComparesAllBits :=
  testsTag_of_tagPredicate (p := fun s t => decide (t = unpackTag s.tagIn)) rfl (fun _ => rfl) fun _ =>
    decide_eq_true_iff.trans be32_eq_toNat_iff.symm

/-! The two columns of R101. -/

variable {b : Byte}

/-- Bit 5 is clear in 0x41 to 0x5A. -/
theorem getLsbD_five_of_upperCase (h : upperCase b) : b.getLsbD 5 = false := by
  obtain ⟨hlo, hhi⟩ := h
  rw [BitVec.getLsbD, Nat.testBit_eq_decide_div_mod_eq, decide_eq_false_iff_not]
  omega

/-- Bit 5 is set in 0x61 to 0x7A. -/
theorem getLsbD_five_of_lowerCase (h : lowerCase b) : b.getLsbD 5 = true := by
  obtain ⟨hlo, hhi⟩ := h
  rw [BitVec.getLsbD, Nat.testBit_eq_decide_div_mod_eq, decide_eq_true_iff]
  omega

/-- On a letter, bit 5 tells the case. -/
theorem case_iff_getLsbD_five (h : letter b) :
    (upperCase b ↔ b.getLsbD 5 = false) ∧ (lowerCase b ↔ b.getLsbD 5 = true) := by
  refine ⟨⟨getLsbD_five_of_upperCase, fun hclear => ?_⟩, ⟨getLsbD_five_of_lowerCase, fun hset => ?_⟩⟩
  · exact h.resolve_right fun hlower =>
      Bool.false_ne_true (hclear.symm.trans (getLsbD_five_of_lowerCase hlower))
  · exact h.resolve_left fun hupper =>
      Bool.false_ne_true ((getLsbD_five_of_upperCase hupper).symm.trans hset)

/-- A predicate that is given no parameter answers the same under every configuration. -/
theorem tagPredicate_with_cfg (p : Tag → Bool) (s : State) :
    ∃ t, tagPredicate p s = .next t ∧ ∀ c, tagPredicate p { s with cfg := c } = .next { t with cfg := c } := by
  rcases tagPredicate_cases p s with ⟨hpresent, hnext⟩ | ⟨habsent, hnext⟩
  · exact ⟨_, hnext, fun _ => needTag_of_present hpresent⟩
  · exact ⟨_, hnext, fun _ => needTag_of_absent habsent⟩

/-- Settles O17: flag by flag, then bit 5 of a letter, then the validity under another setting. -/
theorem eachFlagReadsOneByte : Obligations.EachFlagReadsOneByte := by
  refine ⟨?critical, ?isPublic, ?reserved, ?safeToCopy, fun _ => case_iff_getLsbD_five, fun s r => ?valid⟩
  case critical => exact testsTag_of_tagPredicate rfl (fun _ => rfl) fun s => flagUpper_iff s.cfg s.tag.b0
  case isPublic => exact testsTag_of_tagPredicate rfl (fun _ => rfl) fun s => flagUpper_iff s.cfg s.tag.b1
  case reserved => exact testsTag_of_tagPredicate rfl (fun _ => rfl) fun s => flagUpper_iff s.cfg s.tag.b2
  case safeToCopy => exact testsTag_of_tagPredicate rfl (fun _ => rfl) fun s => flagLower_iff s.cfg s.tag.b3
  case valid =>
    obtain ⟨t, hnext, hcfg⟩ := tagPredicate_with_cfg isValid s
    exact ⟨t, _, hnext, hcfg { s.cfg with flagCase := r }, rfl⟩

end Sys2Proof.Stated
end

section
/-! PROOFS. The checksum (42_crc32.md R140 to R146): it is the function of R141's parameter set, a changed byte changes
it, and CRC32_RAW computes it. -/

namespace Sys2Proof.Stated

open Sys2Proof.Machine

/-- The bit steps of a byte as an iterate, for the library's lemmas on iterates. -/
theorem repeat_eq_iterate {α : Type} (f : α → α) (n : Nat) : Nat.repeat f n = f^[n] := by
  induction n with
  | zero => rfl
  | succ n ih => rw [Function.iterate_succ', ← ih]; rfl

/-! The two directions of computation: reversing the register turns the one of R141 into the one of R140. -/

theorem reverse_xor {w : Nat} (x y : BitVec w) : (x ^^^ y).reverse = x.reverse ^^^ y.reverse := by
  ext k hk
  simp only [BitVec.getElem_reverse, BitVec.getElem_xor, BitVec.getMsbD_xor]

theorem reverse_shiftLeft {w : Nat} (x : BitVec w) (n : Nat) : (x <<< n).reverse = x.reverse >>> n := by
  ext k hk
  simp only [BitVec.getElem_reverse, BitVec.getElem_ushiftRight, BitVec.getMsbD_shiftLeft, BitVec.getLsbD_reverse,
    Nat.add_comm]

theorem reverse_polynomial : (0x04C11DB7 : Word).reverse = 0xEDB88320 := by decide +kernel

theorem reverse_msbBit (c : Word) : (msbBit c).reverse = crcBit c.reverse := by
  rw [crcBit, BitVec.getLsbD_reverse, msbBit]
  split
  · rw [reverse_xor, reverse_shiftLeft, reverse_polynomial]
  · exact reverse_shiftLeft c 1

/-- A byte that enters at the high end enters at the low end of the reversed register, reversed. -/
theorem reverse_byte_at_high_end (b : Byte) : (b.setWidth 32 <<< 24).reverse = zext32 b.reverse := by
  ext k hk
  rw [BitVec.getElem_reverse, BitVec.getMsbD_shiftLeft, BitVec.getMsbD_setWidth, zext32, BitVec.getElem_setWidth,
    BitVec.getLsbD_reverse]
  simp

theorem reverse_msbByte (c : Word) (b : Byte) : (msbByte c b.reverse).reverse = crcByte c.reverse b := by
  have hbits : Function.Semiconj BitVec.reverse msbBit^[8] crcBit^[8] :=
    Function.Semiconj.iterate_right reverse_msbBit 8
  rw [msbByte, crcByte, repeat_eq_iterate, repeat_eq_iterate, hbits.eq, reverse_xor, reverse_byte_at_high_end,
    BitVec.reverse_reverse_eq]

theorem reverse_foldl_msbByte (bs : List Byte) (c : Word) :
    ((bs.map BitVec.reverse).foldl msbByte c).reverse = bs.foldl crcByte c.reverse := by
  rw [List.foldl_map]
  exact (List.foldl_hom BitVec.reverse fun c b => (reverse_msbByte c b).symm).symm

theorem reverse_allOnes : (0xFFFFFFFF : Word).reverse = 0xFFFFFFFF := by decide +kernel

theorem crc32_eq_crcOfParameters (bs : List Byte) : crc32 bs = crcOfParameters bs := by
  rw [crc32, crcOfParameters, reverse_foldl_msbByte, reverse_allOnes]

/-- R141's check value. -/
theorem crc32_check_string : crc32 [0x31, 0x32, 0x33, 0x34, 0x35, 0x36, 0x37, 0x38, 0x39] = 0xCBF43926 := by
  decide +kernel

/-- Settles O34: the equivalence by reversing the register, the three values by computation. -/
theorem checksumMeetsItsParameterSet : Obligations.ChecksumMeetsItsParameterSet :=
  ⟨crc32_eq_crcOfParameters, reverse_polynomial, crc32_check_string, by decide⟩

/-- Settles O33. -/
theorem referenceChecksum : Obligations.ReferenceChecksum := ⟨rfl, by decide +kernel, rfl⟩

/-! No step of the computation loses anything: each is injective in the register, and the first in the byte. -/

theorem msb_polynomial : (0xEDB88320 : Word).msb = true := by decide

/-- Only the polynomial sets the highest bit, so the bit shifted out can be read off the result. -/
theorem msb_crcBit (c : Word) : (crcBit c).msb = c.getLsbD 0 := by
  rw [crcBit]
  split
  next hlow => rw [hlow, BitVec.msb_xor, BitVec.msb_ushiftRight, msb_polynomial]; rfl
  next hlow => rw [Bool.eq_false_of_not_eq_true hlow, BitVec.msb_ushiftRight]; rfl

theorem eq_of_ushiftRight_one_eq {w : Nat} {x y : BitVec w} (hlow : x.getLsbD 0 = y.getLsbD 0)
    (hhigh : x >>> 1 = y >>> 1) : x = y := by
  apply BitVec.eq_of_getLsbD_eq
  intro k _
  cases k with
  | zero => exact hlow
  | succ k => simpa [Nat.add_comm] using congrArg (·.getLsbD k) hhigh

theorem crcBit_injective : Function.Injective crcBit := by
  intro c d h
  have hlow : c.getLsbD 0 = d.getLsbD 0 := by rw [← msb_crcBit, h, msb_crcBit]
  refine eq_of_ushiftRight_one_eq hlow ?_
  rw [crcBit, crcBit, hlow] at h
  split at h
  · exact (BitVec.xor_left_inj _).1 h
  · exact h

/-- Two registers that take in a byte each end equal exactly if they are equal once it has entered. -/
theorem crcByte_eq_iff {c d : Word} {a b : Byte} : crcByte c a = crcByte d b ↔ c ^^^ zext32 a = d ^^^ zext32 b := by
  rw [crcByte, crcByte, repeat_eq_iterate]
  exact (crcBit_injective.iterate 8).eq_iff

theorem zext32_injective : Function.Injective zext32 := fun a b h => by
  simpa [zext32] using congrArg (BitVec.setWidth 8) h

theorem foldl_crcByte_injective (bs : List Byte) : Function.Injective fun c => bs.foldl crcByte c := by
  induction bs with
  | nil => exact fun _ _ h => h
  | cons b bs ih => exact fun c d h => (BitVec.xor_left_inj _).1 (crcByte_eq_iff.1 (ih h))

/-- The registers agree up to the byte that differs; after it they differ, and the rest keeps them apart. -/
theorem crc32_one_byte_inj {p q : List Byte} {a b : Byte} (h : crc32 (p ++ a :: q) = crc32 (p ++ b :: q)) : a = b := by
  simp only [crc32, List.foldl_append, List.foldl_cons, BitVec.xor_left_inj] at h
  exact zext32_injective ((BitVec.xor_right_inj _).1 (crcByte_eq_iff.1 (foldl_crcByte_injective q h)))

/-- Settles O35: the computation is injective in any one byte. -/
theorem changingOneByteChangesTheChecksum : Obligations.ChangingOneByteChangesTheChecksum :=
  ⟨fun _ _ => congrArg crc32, fun _ _ _ _ hne h => hne (crc32_one_byte_inj h)⟩

/-! CRC32_RAW. -/

variable {s : State}

theorem exec_crc32Raw_of_range (h : s.cfg.inSize < s.srcLen.toNat) :
    exec .crc32Raw s = .next (s.withErr .srcRange s.srcLen 0) := if_pos h

/-- Past the range check, what is left is the read of IN. -/
theorem exec_crc32Raw_of_le (h : s.srcLen.toNat ≤ s.cfg.inSize) :
    exec .crc32Raw s = withIn s 0 s.srcLen.toNat fun bs => complete (s.withResult (crc32 bs)) := if_neg (not_lt.2 h)

/-- Settles O19: the range check, then the bytes of IN or the first unwritten one. -/
theorem crc32RawChecksumsTheOperand : Obligations.Crc32RawChecksumsTheOperand := by
  refine ⟨decode_eq_ok_iff.2 rfl, fun s => ⟨exec_crc32Raw_of_range, fun bs hle hlen hbs => ?_, fun hle h => ?_⟩⟩
  · rw [exec_crc32Raw_of_le hle, withIn_of_some (readBytes_iff.2 ⟨hlen, hbs⟩)]
    rfl
  · rw [exec_crc32Raw_of_le hle, withIn_of_none (readBytes_none_iff.2 h)]

end Sys2Proof.Stated
end

section
/-! PROOFS. The chunk commands (43_chunk.md R160 to R173): what CHUNK_NEW and CHUNK_PARSE take from IN, what
CHUNK_SERIALIZE and the accessors make of the chunk slot, and the round trip from the slot to OUT and back (R166). -/

namespace Sys2Proof.Machine

variable {m m' : Memory}

/-! Memories that agree below an address read the same below it. -/

theorem Memory.readBytes_congr_below {a n top : Nat} (h : ∀ x, x < top → m'.read x = m.read x) (hn : a + n ≤ top) :
    m'.readBytes a n = m.readBytes a n :=
  Option.ext fun bs => by
    rw [Memory.readBytes_eq_some, Memory.readBytes_eq_some]
    exact and_congr_right fun _ => forall₂_congr fun k hk => by rw [h (a + k) (by omega)]

theorem Memory.read4_congr_below {a top : Nat} (h : ∀ x, x < top → m'.read x = m.read x) (hn : a + 4 ≤ top) :
    m'.read4 a = m.read4 a := by
  simp only [Memory.read4, h a (by omega), h (a + 1) (by omega), h (a + 2) (by omega), h (a + 3) (by omega)]

end Sys2Proof.Machine

namespace Sys2Proof.Stated

open Sys2Proof.Machine

variable {s : State} {t : Tag} {p : List Byte}

/-! Numbers and their four bytes. -/

theorem be32_be32Encode (v : Word) : be32 (be32Encode v) = v.toNat := by
  rw [← be32Decode_toNat, be32Decode_be32Encode]

theorem ofNat_be32 (b : Bytes4) : BitVec.ofNat 32 (be32 b) = be32Decode b := by
  rw [← be32Decode_toNat, BitVec.ofNat_toNat, BitVec.setWidth_eq]

/-- R145's comparison, of the statements' numbers and of the model's words. -/
theorem be32_eq_crc32_iff {c : Bytes4} : be32 c = (crc32 (four t ++ p)).toNat ↔ be32Decode c = chunkCrc t p := by
  rw [← be32Decode_toNat, BitVec.toNat_inj]
  rfl

/-! The chunk accessors (R170 to R173). -/

/-- R204: without a chunk the five commands that read it all answer alike. -/
theorem exec_of_noChunk {i : Instr} (hi : i ∈ [.chunkSerialize, .chunkLength, .chunkType, .chunkData, .chunkCrc])
    (h : s.chValid = false) : exec i s = .next (s.withErr .noChunk 0 0) := by
  simp only [List.mem_cons, List.not_mem_nil, or_false] at hi
  rcases hi with rfl | rfl | rfl | rfl | rfl
  all_goals rw [exec]; exact needChunk_of_invalid h

theorem exec_chunkLength_of_valid (h : s.chValid = true) :
    exec .chunkLength s = .next ((s.withResult (lengthWord s.chLen)).withErr .none 0 0) := by
  rw [exec, execChunkLength, needChunk_of_valid h, complete_eq]

theorem exec_chunkType_of_valid (h : s.chValid = true) :
    exec .chunkType s = .next (((s.withTag s.chTag).withResult (packTag s.chTag)).withErr .none 0 0) := by
  rw [exec, execChunkType, needChunk_of_valid h, complete_eq]

theorem exec_chunkData_of_valid (h : s.chValid = true) :
    exec .chunkData s = .next ((s.withOut (s.outBuf.writeBytes 0 s.payload) s.chLen).withErr .none 0 0) := by
  rw [exec, execChunkData, needChunk_of_valid h, complete_eq]

theorem exec_chunkCrc_of_valid (h : s.chValid = true) :
    exec .chunkCrc s = .next ((s.withResult (chunkCrc s.chTag s.payload)).withErr .none 0 0) := by
  rw [exec, execChunkCrc, needChunk_of_valid h, complete_eq]

/-- Settles O26. -/
theorem chunkLengthReadsChLen : Obligations.ChunkLengthReadsChLen :=
  ⟨decode_eq_ok_iff.2 rfl, fun _ => ⟨exec_chunkLength_of_valid, exec_of_noChunk (by decide)⟩⟩

/-- Settles O27: the word is `packTag`'s, whose number R61 gives. -/
theorem chunkTypeCopiesTheTag : Obligations.ChunkTypeCopiesTheTag :=
  ⟨decode_eq_ok_iff.2 rfl, fun s =>
    ⟨fun hchunk => ⟨packTag s.chTag, be32Decode_toNat s.chTag, exec_chunkType_of_valid hchunk⟩,
      exec_of_noChunk (by decide)⟩⟩

/-- Settles O29. -/
theorem chunkCrcRecomputesTheChecksum : Obligations.ChunkCrcRecomputesTheChecksum :=
  ⟨decode_eq_ok_iff.2 rfl, fun _ => ⟨exec_chunkCrc_of_valid, exec_of_noChunk (by decide)⟩⟩

/-- Settles O28: the invariant makes the payload CH_LEN bytes long. -/
theorem chunkDataCopiesThePayload : Obligations.ChunkDataCopiesThePayload := by
  refine ⟨decode_eq_ok_iff.2 rfl, fun s => ⟨exec_of_noChunk (by decide), fun hs hchunk => ?_⟩⟩
  have hlen : s.payload.length = s.chLen := hs.payload_length
  exact ⟨s.outBuf.writeBytes 0 s.payload, exec_chunkData_of_valid hchunk, hlen, bytesAre_writeBytes _ 0 _, fun a ha =>
    Memory.read_writeBytes_other (by omega)⟩

/-! CHUNK_SERIALIZE (R165). -/

/-- In a state with the invariant, what CHUNK_SERIALIZE stores is the wire image. -/
theorem exec_chunkSerialize_of_valid (hs : s.Inv) (h : s.chValid = true) :
    exec .chunkSerialize s =
      .next ((s.withOut (s.outBuf.writeBytes 0 (wire s.chTag s.payload)) (12 + s.chLen)).withErr .none 0 0) := by
  rw [← serializeTo_eq_writeBytes_wire, hs.payload_length, exec, execChunkSerialize, needChunk_of_valid h, complete_eq]

/-- Settles O24: the image is the wire image, and ends at 12+N. -/
theorem chunkSerializeWritesTheWireImage : Obligations.ChunkSerializeWritesTheWireImage := by
  refine ⟨decode_eq_ok_iff.2 rfl, fun s => ⟨exec_of_noChunk (by decide), fun hs hchunk => ?_⟩⟩
  obtain ⟨-, hout, hword⟩ := Config.sizes_of_wf hs.cfg_wf
  have hlen := hs.payload_length
  have hch := hs.ch_len
  refine ⟨_, be32Encode (lengthWord s.payload.length), be32Encode (chunkCrc s.chTag s.payload),
    exec_chunkSerialize_of_valid hs hchunk, ?length, be32_be32Encode _, bytesAre_writeBytes _ 0 _, fun a ha => ?above⟩
  case length => rw [be32_be32Encode, lengthWord_toNat (by omega), hlen]
  case above => exact Memory.read_writeBytes_other (.inr (by rw [wire_length]; omega))

/-! CHUNK_NEW (R162). -/

theorem exec_chunkNew_of_absent (h : s.tagPresent = false) :
    exec .chunkNew s = .next (s.dropChunk.withErr .noTag 0 0) := if_pos h

theorem exec_chunkNew_of_present (h : s.tagPresent = true) :
    exec .chunkNew s =
      if s.srcLen.toNat > s.cfg.inSize then raise .srcRange s.srcLen 0 s.dropChunk
      else withIn s 0 s.srcLen.toNat fun p => complete (s.withChunk s.tag p) := by
  rw [exec, execChunkNew, if_neg (by simp [h])]

/-- Settles O20: the tag, then the range, then the bytes of IN. -/
theorem chunkNewCopiesTagAndPayload : Obligations.ChunkNewCopiesTagAndPayload := by
  refine ⟨decode_eq_ok_iff.2 rfl, fun s =>
    ⟨exec_chunkNew_of_absent, fun htag hrange => ?_, fun p htag hle hlen hp => ⟨s.chPayload.drop p.length, ?_⟩⟩⟩
  · rw [exec_chunkNew_of_present htag]
    exact if_pos hrange
  · rw [exec_chunkNew_of_present htag, if_neg (not_lt.2 hle), withIn_of_some (readBytes_iff.2 ⟨hlen, hp⟩), ← hlen]
    rfl

/-! CHUNK_PARSE (R163), as far as its checks have passed. -/

theorem exec_chunkParse_of_range (h : s.cfg.inSize < s.srcLen.toNat) :
    exec .chunkParse s = .next (s.dropChunk.withErr .srcRange s.srcLen 0) := if_pos h

theorem exec_chunkParse_of_small (hle : s.srcLen.toNat ≤ s.cfg.inSize) (h : s.srcLen.toNat < 12) :
    exec .chunkParse s = .next (s.dropChunk.withErr .chunkInputTooSmall 0 0) := by
  rw [exec, execChunkParse, if_neg (not_lt.2 hle), if_pos h, raise_eq]

section Parse

variable {d c : Bytes4} (hle : s.srcLen.toNat ≤ s.cfg.inSize) (h12 : 12 ≤ s.srcLen.toNat)
  (hd : bytesAre s.inBuf 0 (four d))
include hle h12 hd

/-- The declared length is in IN: what is left is the tag's check, and the body. -/
theorem exec_chunkParse_of_declared :
    exec .chunkParse s = withIn4 s 4 fun t =>
      if isValid t then parseBody s s.srcLen.toNat (be32 d) t else raise .chunkInvalidTagType 0 0 s.dropChunk := by
  rw [exec, execChunkParse_of_length hle h12, withIn4_of_some (read4_iff.2 hd), be32Decode_toNat]

variable (ht : bytesAre s.inBuf 4 (four t))
include ht

theorem exec_chunkParse_of_invalidTag (hinvalid : ¬ validTag t) :
    exec .chunkParse s = .next (s.dropChunk.withErr .chunkInvalidTagType 0 0) := by
  rw [exec_chunkParse_of_declared hle h12 hd, withIn4_of_some (read4_iff.2 ht), if_neg (mt (isValid_iff t).1 hinvalid),
    raise_eq]

theorem exec_chunkParse_of_validTag (hvalid : validTag t) :
    exec .chunkParse s = parseBody s s.srcLen.toNat (be32 d) t := by
  rw [exec_chunkParse_of_declared hle h12 hd, withIn4_of_some (read4_iff.2 ht), if_pos ((isValid_iff t).2 hvalid)]

end Parse

theorem parseBody_of_lt {L n : Nat} (h : L - 12 < n) :
    parseBody s L n t = .next (s.dropChunk.withErr .chunkBounds 0 0) := if_pos h

/-- Past the bounds check, the body is the two reads and the checksum's comparison; L plays no more part. -/
theorem parseBody_of_le {L n : Nat} (h : n ≤ L - 12) :
    parseBody s L n t = withIn s 8 n fun p => withIn4 s (8 + n) fun c =>
      if be32Decode c = chunkCrc t p then complete ((s.withChunk t p).withResult (lengthWord (12 + n)))
      else raise .chunkInvalidCrc (be32Decode c) (chunkCrc t p) s.dropChunk := if_neg (not_lt.2 h)

theorem parseBody_of_bytes {L n : Nat} {c : Bytes4} (h : n ≤ L - 12) (hlen : p.length = n) (hp : bytesAre s.inBuf 8 p)
    (hc : bytesAre s.inBuf (8 + n) (four c)) :
    parseBody s L n t =
      if be32Decode c = chunkCrc t p then complete ((s.withChunk t p).withResult (lengthWord (12 + n)))
      else raise .chunkInvalidCrc (be32Decode c) (chunkCrc t p) s.dropChunk := by
  rw [parseBody_of_le h, withIn_of_some (readBytes_iff.2 ⟨hlen, hp⟩), withIn4_of_some (read4_iff.2 hc)]

/-- Settles O21, check by check in the order of R163. -/
theorem chunkParseChecksInStepOrder : Obligations.ChunkParseChecksInStepOrder := by
  refine ⟨decode_eq_ok_iff.2 rfl, fun s => ⟨exec_chunkParse_of_range, exec_chunkParse_of_small,
    fun d t hle h12 hd ht => ⟨exec_chunkParse_of_invalidTag hle h12 hd ht, fun hvalid hbounds => ?bounds,
      fun p c hvalid hn hlen hp hc => ?body⟩⟩⟩
  case bounds => rw [exec_chunkParse_of_validTag hle h12 hd ht hvalid, parseBody_of_lt hbounds]; rfl
  case body =>
    rw [exec_chunkParse_of_validTag hle h12 hd ht hvalid, parseBody_of_bytes hn hlen hp hc, Ne, be32_eq_crc32_iff,
      ofNat_be32, ← hlen]
    exact ⟨fun hne => if_neg hne, fun heq => ⟨s.chPayload.drop p.length, if_pos heq⟩⟩

/-! The round trip (R166). -/

/-- A wire image in IN, of a chunk with a valid tag, parses to that chunk: R161's layout is what R163 reads. -/
theorem exec_chunkParse_of_wire (hle : s.srcLen.toNat ≤ s.cfg.inSize) (hfit : 12 + p.length ≤ s.srcLen.toNat)
    (hvalid : validTag t) (h : bytesAre s.inBuf 0 (wire t p)) :
    exec .chunkParse s = .next (((s.withChunk t p).withResult (lengthWord (12 + p.length))).withErr .none 0 0) := by
  simp only [wire, bytesAre_append, List.length_append, toList_eq_four, zero_add] at h
  obtain ⟨⟨⟨hd, ht⟩, hp⟩, hc⟩ := h
  have hn : be32 (be32Encode (lengthWord p.length)) = p.length := by
    rw [be32_be32Encode, lengthWord_toNat (by have := s.srcLen.isLt; omega)]
  rw [exec_chunkParse_of_validTag hle (by omega) hd ht hvalid, hn, parseBody_of_bytes (by omega) rfl hp hc,
    if_pos (be32Decode_be32Encode _), complete_eq]

/-- Settles O25: OUT holds the wire image, so IN does, and it parses to the chunk it is the image of. -/
theorem serializeThenParseRoundTrips : Obligations.SerializeThenParseRoundTrips := by
  intro s hs hchunk hvalid hfit
  obtain ⟨hin, hout, hword⟩ := Config.sizes_of_wf hs.cfg_wf
  have hlen := hs.payload_length
  have houtLen : (lengthWord (12 + s.chLen)).toNat = 12 + s.chLen := lengthWord_toNat (by omega)
  refine ⟨_, exec_chunkSerialize_of_valid hs hchunk, fun m hm => ?_⟩
  simp only [State.withErr_outLen, State.withErr_outBuf, State.withOut_outLen, State.withOut_outBuf, houtLen] at hm
  have himage : bytesAre m 0 (wire s.chTag s.payload) := fun k hk => by
    rw [hm _ (by rw [wire_length] at hk; omega)]
    exact bytesAre_writeBytes _ 0 _ k hk
  refine ⟨_, exec_chunkParse_of_wire (houtLen.trans_le hfit) (by rw [hlen]; exact houtLen.ge) hvalid himage,
    rfl, rfl, rfl, hlen, List.take_left, ?result, _, _, exec_chunkCrc_of_valid hchunk, exec_chunkCrc_of_valid rfl, ?crc⟩
  case result => rw [hlen]; exact houtLen
  case crc => exact congrArg (chunkCrc s.chTag) List.take_left

/-! Trailing data (R164). -/

/-- The state with other contents of IN and another SRC_LEN. -/
def withSource (m : Memory) (L : Word) (s : State) : State := { s with inBuf := m, srcLen := L }

/-- An outcome with its next state, if it has one, changed by f. -/
def onNext (f : State → State) : Outcome → Outcome
  | .next s    => .next (f s)
  | .fault r   => .fault r
  | .refused r => .refused r

section Trailing

variable {m : Memory} {L : Word} {f : State → State}

theorem withIn_withSource {a n : Nat} {k k' : List Byte → Outcome} (hread : m.readBytes a n = s.inBuf.readBytes a n)
    (hk : ∀ bs, k' bs = onNext f (k bs)) : withIn (withSource m L s) a n k' = onNext f (withIn s a n k) := by
  rcases withIn_cases s a n k with ⟨bs, hbs, hgo⟩ | ⟨hnone, hfault⟩
  · rw [hgo, withIn_of_some (hread.trans hbs), hk]
  · rw [hfault, withIn_of_none (hread.trans hnone), onNext]

theorem withIn4_withSource {a : Nat} {k k' : Bytes4 → Outcome} (hread : m.read4 a = s.inBuf.read4 a)
    (hk : ∀ b, k' b = onNext f (k b)) : withIn4 (withSource m L s) a k' = onNext f (withIn4 s a k) := by
  rcases withIn4_cases s a k with ⟨b, hb, hgo⟩ | ⟨hnone, hfault⟩
  · rw [hgo, withIn4_of_some (hread.trans hb), hk]
  · rw [hfault, withIn4_of_none (hread.trans hnone), onNext]

/-- The body reads IN below 12+n only. -/
theorem parseBody_withSource {n K K' : Nat} (hK : n ≤ K - 12) (hK' : n ≤ K' - 12)
    (hm : ∀ a, a < 12 + n → m.read a = s.inBuf.read a) :
    parseBody (withSource m L s) K' n t = onNext (withSource m L) (parseBody s K n t) := by
  rw [parseBody_of_le hK, parseBody_of_le hK']
  refine withIn_withSource (Memory.readBytes_congr_below hm (by omega)) fun p =>
    withIn4_withSource (Memory.read4_congr_below hm (by omega)) fun c => ?_
  split
  · rfl
  · rfl

/-- So does the whole command, for the length IN declares. -/
theorem exec_chunkParse_withSource {d : Bytes4} (hd : bytesAre s.inBuf 0 (four d)) (hfit : 12 + be32 d ≤ s.srcLen.toNat)
    (hle : s.srcLen.toNat ≤ s.cfg.inSize) (hfit' : 12 + be32 d ≤ L.toNat) (hle' : L.toNat ≤ s.cfg.inSize)
    (hm : ∀ a, a < 12 + be32 d → m.read a = s.inBuf.read a) :
    exec .chunkParse (withSource m L s) = onNext (withSource m L) (exec .chunkParse s) := by
  have hd' : bytesAre m 0 (four d) :=
    read4_iff.1 ((Memory.read4_congr_below hm (by omega)).trans (read4_iff.2 hd))
  rw [exec_chunkParse_of_declared hle (by omega) hd,
    exec_chunkParse_of_declared (s := withSource m L s) hle' (by exact le_trans (by omega) hfit') hd']
  refine withIn4_withSource (Memory.read4_congr_below hm (by omega)) fun x => ?_
  split
  · exact parseBody_withSource (by omega) (Nat.le_sub_of_add_le' hfit') hm
  · rfl

end Trailing

/-- R163: RESULT of a parse that reports no error is the length of the image. -/
theorem result_of_chunkParse {u : State} {d : Bytes4} (h : exec .chunkParse s = .next u) (hnone : u.errCode = .none)
    (hd : bytesAre s.inBuf 0 (four d)) : u.result = BitVec.ofNat 32 (12 + be32 d) := by
  obtain ⟨v, e, i0, i1, heffect, rfl⟩ := exec_next h
  cases heffect with
  | @chunkParse d' _ _ _ _ _ hread =>
    obtain rfl : d' = d := Option.some.inj (hread.symm.trans (read4_iff.2 hd))
    rw [← be32Decode_toNat]
    rfl
  | _ => simp at hnone

/-- Settles O22: changing IN at 12+N and above, and SRC_LEN, changes nothing else of the outcome. -/
theorem trailingDataIsNotRead : Obligations.TrailingDataIsNotRead := by
  intro s d m L hd hfit hle hfit' hle' hm
  have hsame := exec_chunkParse_withSource hd hfit hle hfit' hle' hm
  exact ⟨fun t h => ⟨hsame.trans (congrArg _ h), fun hnone => result_of_chunkParse h hnone hd⟩,
    fun f h => hsame.trans (congrArg _ h)⟩

end Sys2Proof.Stated
end

section
/-! PROOFS. How a command ends (60_exceptions.md R200 to R206): what an error leaves of the command's writes, what a success
leaves of the error report, which errors each command raises; and the engine that has no command (R212). -/

namespace Sys2Proof.Machine

variable {s u : State} {i : Instr} {e : ErrCode} {i0 i1 : Word}

/-! An idle engine. -/

theorem engineTurn_of_idle (hidle : s.busy = false) : engineTurn s = .next s := if_neg (by simp [hidle])

/-- Settles O9: the turn passes, and only the turn is taken off the list. -/
theorem idleEngineHasNoStep : Obligations.IdleEngineHasNoStep := by
  intro s hturn hidle
  rw [step_engine hturn]
  exact engineTurn_of_idle (s := s.popTurn) hidle

/-! Errors. -/

/-- The slot invalidation that the command i states for its errors: TAG_FROM_TEXT's of the tag slot (R103), CHUNK_NEW's and
CHUNK_PARSE's of the chunk slot (R162, R163). -/
def State.invalidatedBy (s : State) (i : Instr) : State :=
  { s with
    tagPresent := if i = .tagFromText then false else s.tagPresent
    chValid := if i = .chunkNew ∨ i = .chunkParse then false else s.chValid }

theorem State.invalidatedBy_tagFromText (s : State) : s.invalidatedBy .tagFromText = s.dropTag := rfl

theorem State.invalidatedBy_chunkNew (s : State) : s.invalidatedBy .chunkNew = s.dropChunk := rfl

theorem State.invalidatedBy_chunkParse (s : State) : s.invalidatedBy .chunkParse = s.dropChunk := rfl

theorem State.invalidatedBy_of_notMem (s : State) (hi : i ∉ [.tagFromText, .chunkNew, .chunkParse]) :
    s.invalidatedBy i = s := by
  simp only [List.mem_cons, List.not_mem_nil, or_false, not_or] at hi
  obtain ⟨htext, hnew, hparse⟩ := hi
  simp [State.invalidatedBy, htext, hnew, hparse]

/-- R202: of the writes of a command that raises an error only the invalidation is kept. -/
theorem Effect.eq_invalidatedBy (h : Effect s i u e i0 i1) (hraised : e ≠ .none) : u = s.invalidatedBy i := by
  cases h with
  | textLength | textCharacter => exact s.invalidatedBy_tagFromText.symm
  | newNoTag | newRange => exact s.invalidatedBy_chunkNew.symm
  | parseRange | parseSmall | parseTag | parseBounds | parseCrc => exact s.invalidatedBy_chunkParse.symm
  | noTag _ hi => exact (s.invalidatedBy_of_notMem (by revert i; decide)).symm
  | noChunk _ hi => exact (s.invalidatedBy_of_notMem (by revert i; decide)).symm
  | crcRange => exact (s.invalidatedBy_of_notMem (by decide)).symm
  | _ => exact absurd rfl hraised

/-- Settles O41: the command's own writes are the invalidation, and the engine's turn then clears BUSY. -/
theorem errorsArePrecise : Obligations.ErrorsArePrecise := by
  refine ⟨fun i s t h hraised => ?_, fun s t h hturn hbusy => ?_⟩
  · obtain ⟨u, e, i0, i1, heffect, rfl⟩ := exec_next h
    obtain rfl := heffect.eq_invalidatedBy hraised
    rfl
  · rw [step_engine hturn] at h
    exact engineTurn_of_busy (s := s.popTurn) hbusy h

/-- Settles O43: each effect that raises an error is a row of R200. -/
theorem commandsRaiseTheirListedErrors : Obligations.CommandsRaiseTheirListedErrors := by
  intro i s t h hraised
  obtain ⟨u, e, i0, i1, heffect, rfl⟩ := exec_next h
  cases heffect with
  | textLength => exact .inl ⟨rfl, rfl, rfl, rfl⟩
  | textCharacter => exact .inr (.inl ⟨rfl, rfl, rfl, rfl⟩)
  | parseSmall => exact .inr (.inr (.inl ⟨rfl, rfl, rfl, rfl⟩))
  | parseTag => exact .inr (.inr (.inr (.inl ⟨rfl, rfl, rfl, rfl⟩)))
  | parseBounds => exact .inr (.inr (.inr (.inr (.inl ⟨rfl, rfl, rfl, rfl⟩))))
  | parseCrc _ _ _ _ _ _ _ _ hne => exact .inr (.inr (.inr (.inr (.inr (.inl ⟨rfl, rfl, hne⟩)))))
  | noTag _ hi =>
    exact .inr (.inr (.inr (.inr (.inr (.inr (.inl ⟨rfl, List.mem_append_left [Instr.chunkNew] hi, rfl, rfl⟩))))))
  | newNoTag => exact .inr (.inr (.inr (.inr (.inr (.inr (.inl ⟨rfl, by decide, rfl, rfl⟩))))))
  | noChunk _ hi => exact .inr (.inr (.inr (.inr (.inr (.inr (.inr (.inl ⟨rfl, hi, rfl, rfl⟩)))))))
  | crcRange | newRange | parseRange =>
    exact .inr (.inr (.inr (.inr (.inr (.inr (.inr (.inr ⟨rfl, by decide, rfl, rfl⟩)))))))
  | _ => exact absurd rfl hraised

/-! Success. -/

/-- Settles O42: a report of no error has no values, and STATUS.ERR is the report's code against none (R24). -/
theorem successClearsTheErrorReport : Obligations.SuccessClearsTheErrorReport := by
  intro i s t h hnone
  obtain ⟨hstatus, -⟩ := Stated.statusShowsItsFields
  obtain ⟨v, hread, -, herr, -⟩ := hstatus t
  have hclear : v.getLsbD 1 = false := herr.trans (decide_eq_false (not_not.2 hnone))
  obtain ⟨u, e, i0, i1, heffect, rfl⟩ := exec_next h
  obtain rfl : e = .none := hnone
  obtain ⟨hinfo0, hinfo1⟩ := heffect.info_of_none
  exact ⟨hinfo0, hinfo1, v, hread, hclear⟩

end Sys2Proof.Machine
end

section
/-! PROOFS. RESET and the hazards of a busy block (70_reset_and_hazards.md R230 to R241): that a command in flight ends, what
the host may access meanwhile, and what RESET leaves. -/

namespace Sys2Proof.Machine

variable {s : State} {a : Access}

/-! The end of a command in flight. -/

/-- What an outcome is once the command in flight has ended or the run has: a state with BUSY = 0, or a stop. -/
def CommandOver : Outcome → Prop
  | .next t    => t.busy = false
  | .fault _   => True
  | .refused _ => True

/-- After one step the command is over, or the block is still busy. -/
theorem commandOver_run_one_or_busy (s : State) :
    CommandOver (Sys2Proof.core.run 1 s) ∨ ∃ t, step s = .next t ∧ t.busy = true := by
  rcases hstep : step s with t | f | r
  · rw [core_run_of_next hstep, core_run_zero]
    cases hbusy : t.busy with
    | false => exact .inl hbusy
    | true => exact .inr ⟨t, rfl, hbusy⟩
  · rw [core_run_of_fault hstep]
    exact .inl trivial
  · rw [core_run_of_refused hstep]
    exact .inl trivial

/-- When the turns are used up, a busy engine moves, which ends the command. -/
theorem step_idle_of_no_turns {t : State} (hturns : s.turns = []) (hbusy : s.busy = true) (h : step s = .next t) :
    t.busy = false := by
  rw [step_engine (by simp [State.turn, hturns, hbusy])] at h
  exact engineTurn_of_busy (s := s.popTurn) hbusy h

/-- By induction on the turns listed: each step ends the command or takes a turn off the list. -/
theorem exists_run_commandOver {turns : List Turn} (hturns : s.turns = turns) (hbusy : s.busy = true) :
    ∃ k, k ≤ turns.length + 1 ∧ CommandOver (Sys2Proof.core.run k s) := by
  induction turns generalizing s with
  | nil =>
    rcases commandOver_run_one_or_busy s with hover | ⟨t, hstep, htbusy⟩
    · exact ⟨1, le_rfl, hover⟩
    · simp [step_idle_of_no_turns hturns hbusy hstep] at htbusy
  | cons turn rest ih =>
    rcases commandOver_run_one_or_busy s with hover | ⟨t, hstep, htbusy⟩
    · exact ⟨1, Nat.le_add_left 1 _, hover⟩
    · obtain ⟨k, hk, hover⟩ := ih (by rw [step_turns hstep, hturns, List.tail_cons]) htbusy
      exact ⟨k + 1, Nat.succ_le_succ hk, by rwa [core_run_of_next hstep]⟩

/-- Settles O10. -/
theorem pendingCommandEnds : Obligations.PendingCommandEnds := fun _ hbusy => exists_run_commandOver rfl hbusy

/-! The accesses of a busy block's host. -/

/-- The model's list of accesses allowed while busy is R236's. -/
theorem allowedWhileBusy_iff (a : Access) :
    allowedWhileBusy a = true ↔ a.space = .reg ∧ a.dir = .read ∧ (a.offset = 0x08 ∨ a.offset = 0x00) := by
  cases h : a.dir <;> simp [allowedWhileBusy, Direction.isWrite, RegName.offset, h]

theorem isCmdWrite_iff (a : Access) :
    isCmdWrite a = true ↔ a.space = .reg ∧ a.dir ≠ .read ∧ a.offset = 0x04 := by
  simp [isCmdWrite, Direction.isWrite_iff, RegName.offset, and_assoc]

/-- A busy block answers what it does not allow with one of two faults (R236, R237). -/
theorem hostAccess_of_not_allowed (hbusy : s.busy = true) (hbus : busError s.cfg a = false)
    (hallowed : allowedWhileBusy a = false) :
    hostAccess s a = .error (if isCmdWrite a then .cmdWhileBusy else .hazard) := by
  simp [hostAccess, hbusy, hbus, hallowed]

/-- A read of REG that is no bus error and that the block allows answers the register's value. -/
theorem hostAccess_of_allowed (hbus : busError s.cfg a = false) (hallowed : allowedWhileBusy a = true) :
    hostAccess s a = .ok (s, some (readOffset s a.offset)) := by
  obtain ⟨hspace, hdir, -⟩ := (allowedWhileBusy_iff a).1 hallowed
  simp [hostAccess, hbus, hallowed, hspace, hdir]

/-- Settles O45: what R236 allows, then the CMD write among the rest. -/
theorem onlyStatusAndIdAreReadableWhileBusy : Obligations.OnlyStatusAndIdAreReadableWhileBusy := by
  intro s a hbusy hnobus
  have hbus : busError s.cfg a = false := by rwa [← Bool.not_eq_true, busError_iff]
  rw [← allowedWhileBusy_iff, ← isCmdWrite_iff, Bool.not_eq_true, Bool.not_eq_true]
  refine ⟨fun hallowed => ⟨_, hostAccess_of_allowed hbus hallowed⟩, fun hcmd => ?_, fun ⟨hallowed, hcmd⟩ => ?_⟩
  · have hallowed : allowedWhileBusy a = false := by
      obtain ⟨-, hwrite, -⟩ := (isCmdWrite_iff a).1 hcmd
      rw [← Bool.not_eq_true, allowedWhileBusy_iff]
      exact fun ⟨_, hread, _⟩ => hwrite hread
    rw [hostAccess_of_not_allowed hbusy hbus hallowed, hcmd]
    rfl
  · rw [hostAccess_of_not_allowed hbusy hbus hallowed, hcmd]
    rfl

/-! RESET. -/

@[simp] theorem statusWord_applyReset (s : State) : statusWord s.applyReset = 0 := by
  simp [statusWord, State.err, boolWord]

/-- Settles O56: the fields, then the registers and the buffers as an idle host reads them. -/
theorem resetClearsTheBlock : Obligations.ResetClearsTheBlock := by
  rintro s _ rfl
  have read (o : Nat) (hal : o % 4 = 0) (hlt : o < 0x40) :=
    Stated.hostAccess_regRead hal hlt (.inl s.applyReset_busy)
  have status : readOffset s.applyReset 0x08 = 0 := statusWord_applyReset s
  exact ⟨rfl, rfl, rfl, rfl, rfl, rfl, rfl, rfl, rfl, rfl, rfl, Memory.read_nil,
    read 0x00 rfl (by decide), status ▸ read 0x08 rfl (by decide), read 0x28 rfl (by decide), read 0x2C rfl (by decide),
    read 0x30 rfl (by decide),
    fun o ho => Stated.hostAccess_outRead_stale ho s.applyReset_busy (Nat.zero_le o),
    fun o ho => Stated.hostAccess_inRead_unwritten ho s.applyReset_busy (Memory.read_nil o)⟩

/-- The reset state has the invariant for all parameters R10 allows. -/
theorem State.Inv.resetWith {c : Config} (h : c.wf = true) : (State.resetWith c).Inv where
  cfg_wf := h
  in_wf := .nil
  in_bound := nofun
  out_wf := .nil
  out_bound := nofun
  out_len := Nat.zero_le _
  out_filled := nofun
  payload_size := List.length_replicate
  ch_len := Nat.zero_le _
  err_raised := nofun
  info0_zero _ := rfl
  info1_zero _ := rfl
  crc_differ := nofun

/-- Settles O57: the parameters are those of the spec's vectors, log entry 1. -/
theorem invariantHoldsAtReset : Obligations.InvariantHoldsAtReset := .resetWith (by decide)

end Sys2Proof.Machine
end
